-- ==== Sys2Proof/Word.lean ====
section
/-! DEFINITION. The word types of CORE: the 8-bit byte of a general register or memory cell, the 16-bit word of
`I`, `PC`, a stack slot and an instruction, and the number of a general register or key. -/

namespace Sys2Proof

/-- A general register, a timer or a memory byte: 8 bits (10_state.md R20, R27; 20_memory.md R60). -/
abbrev Byte := BitVec 8

/-- `I`, `PC`, a stack slot, `KEYS` or an instruction word: 16 bits (10_state.md R24, R25, R26, R29; 30_encoding.md R91). -/
abbrev Word := BitVec 16

/-- The number of one of the 16 general registers, as the fields `X` and `Y` hold it (10_state.md R20, R23). -/
abbrev Reg := Fin 16

/-- The number of one of the 16 keys (10_state.md R29). -/
abbrev Key := Fin 16

/-- One row of the display, 64 cells, column 0 in the most significant bit (10_state.md R30). -/
abbrev Row := BitVec 64

end Sys2Proof
end

