-- ==== Sys2Proof/Decode.lean ====
section
/-! DEFINITION. Decoding and encoding. `decode` is total on the 65536 words and rejects a word outside the opcode map
by name (30_encoding.md R95, R96); `encode` is its inverse, written from the formats of R92 and R102; the bytes of a
word are big-endian (20_memory.md R64). -/

namespace Sys2Proof

/-- Why bits are no instruction. -/
inductive DecodeError where
  /-- The word selects no row of the opcode map (30_encoding.md R96). -/
  | unknownOpcode (w : Word)
  /-- Fewer than the two bytes every instruction has (30_encoding.md R91). -/
  | truncated
  deriving DecidableEq, Repr

/-! ### The fields of a word (30_encoding.md R91) -/

/-- `F = opcode[15:12]`, the opcode family. -/
def fieldF (w : Word) : BitVec 4 := w.extractLsb' 12 4
/-- `X = opcode[11:8]`. -/
def fieldX (w : Word) : Reg := (w.extractLsb' 8 4).toFin
/-- `Y = opcode[7:4]`. -/
def fieldY (w : Word) : Reg := (w.extractLsb' 4 4).toFin
/-- `N = opcode[3:0]`. -/
def fieldN (w : Word) : BitVec 4 := w.extractLsb' 0 4
/-- `NN = opcode[7:0]`. -/
def fieldNN (w : Word) : Byte := w.extractLsb' 0 8
/-- `NNN = opcode[11:0]`. -/
def fieldNNN (w : Word) : BitVec 12 := w.extractLsb' 0 12

/-- Family 0: the two fixed words win over `0NNN` (30_encoding.md R94). -/
def decodeFamily0 (w : Word) : Instr :=
  match fieldNNN w with
  | 0x0E0#12 => .cls
  | 0x0EE#12 => .ret
  | nnn => .sys nnn

/-- Family 8, selected by the low nibble; `8`, `9`, `A` to `D` and `F` are illegal (30_encoding.md R95, R96). -/
def decodeFamily8 (w : Word) : Except DecodeError Instr :=
  match fieldN w with
  | 0x0#4 => .ok (.ldReg (fieldX w) (fieldY w))
  | 0x1#4 => .ok (.orReg (fieldX w) (fieldY w))
  | 0x2#4 => .ok (.andReg (fieldX w) (fieldY w))
  | 0x3#4 => .ok (.xorReg (fieldX w) (fieldY w))
  | 0x4#4 => .ok (.addReg (fieldX w) (fieldY w))
  | 0x5#4 => .ok (.subReg (fieldX w) (fieldY w))
  | 0x6#4 => .ok (.shr (fieldX w) (fieldY w))
  | 0x7#4 => .ok (.subnReg (fieldX w) (fieldY w))
  | 0xE#4 => .ok (.shl (fieldX w) (fieldY w))
  | _ => .error (.unknownOpcode w)

/-- Family E, selected by the low byte (30_encoding.md R95, R96). -/
def decodeFamilyE (w : Word) : Except DecodeError Instr :=
  match fieldNN w with
  | 0x9E#8 => .ok (.skp (fieldX w))
  | 0xA1#8 => .ok (.sknp (fieldX w))
  | _ => .error (.unknownOpcode w)

/-- Family F, selected by the low byte (30_encoding.md R95, R96). -/
def decodeFamilyF (w : Word) : Except DecodeError Instr :=
  match fieldNN w with
  | 0x07#8 => .ok (.ldVxDT (fieldX w))
  | 0x0A#8 => .ok (.ldVxK (fieldX w))
  | 0x15#8 => .ok (.ldDTVx (fieldX w))
  | 0x18#8 => .ok (.ldSTVx (fieldX w))
  | 0x1E#8 => .ok (.addI (fieldX w))
  | 0x29#8 => .ok (.ldF (fieldX w))
  | 0x33#8 => .ok (.ldB (fieldX w))
  | 0x55#8 => .ok (.storeRegs (fieldX w))
  | 0x65#8 => .ok (.loadRegs (fieldX w))
  | _ => .error (.unknownOpcode w)

/-- The instruction a word selects, or its rejection (30_encoding.md R94 to R97). Families 5 and 9 check their low
nibble (R97). The sixteen arms before the last are all the values of the nibble; the last is never taken. -/
def decode (w : Word) : Except DecodeError Instr :=
  match fieldF w with
  | 0x0#4 => .ok (decodeFamily0 w)
  | 0x1#4 => .ok (.jp (fieldNNN w))
  | 0x2#4 => .ok (.call (fieldNNN w))
  | 0x3#4 => .ok (.seImm (fieldX w) (fieldNN w))
  | 0x4#4 => .ok (.sneImm (fieldX w) (fieldNN w))
  | 0x5#4 => if fieldN w = 0x0#4 then .ok (.seReg (fieldX w) (fieldY w)) else .error (.unknownOpcode w)
  | 0x6#4 => .ok (.ldImm (fieldX w) (fieldNN w))
  | 0x7#4 => .ok (.addImm (fieldX w) (fieldNN w))
  | 0x8#4 => decodeFamily8 w
  | 0x9#4 => if fieldN w = 0x0#4 then .ok (.sneReg (fieldX w) (fieldY w)) else .error (.unknownOpcode w)
  | 0xA#4 => .ok (.ldI (fieldNNN w))
  | 0xB#4 => .ok (.jpV0 (fieldNNN w))
  | 0xC#4 => .ok (.rnd (fieldX w) (fieldNN w))
  | 0xD#4 => .ok (.drw (fieldX w) (fieldY w) (fieldN w))
  | 0xE#4 => decodeFamilyE w
  | 0xF#4 => decodeFamilyF w
  | _ => .error (.unknownOpcode w)

/-- Decoding from bytes: the first of the two is the more significant (20_memory.md R64). Answers the rest. -/
def decodeBytes : List Byte → Except DecodeError (Instr × List Byte)
  | b0 :: b1 :: rest => (decode (b0 ++ b1)).map fun i => (i, rest)
  | [_] => .error .truncated
  | [] => .error .truncated

/-! ### Encoding (30_encoding.md R92, R102) -/

/-- A register number as the 4 bits of a field. -/
def regBits (x : Reg) : BitVec 4 := BitVec.ofFin x

/-- Format XNN. -/
def encXNN (op : BitVec 4) (x : Reg) (nn : Byte) : Word := op ++ regBits x ++ nn
/-- Format XY with sub-opcode `n`, and format XYN. -/
def encXYN (op : BitVec 4) (x y : Reg) (n : BitVec 4) : Word := op ++ regBits x ++ regBits y ++ n
/-- Format NNN. -/
def encNNN (op : BitVec 4) (nnn : BitVec 12) : Word := op ++ nnn

/-- The word of an instruction. -/
def encode : Instr → Word
  | .cls => 0x00E0#16
  | .ret => 0x00EE#16
  | .sys nnn => encNNN 0x0#4 nnn
  | .jp nnn => encNNN 0x1#4 nnn
  | .call nnn => encNNN 0x2#4 nnn
  | .seImm x nn => encXNN 0x3#4 x nn
  | .sneImm x nn => encXNN 0x4#4 x nn
  | .seReg x y => encXYN 0x5#4 x y 0x0#4
  | .ldImm x nn => encXNN 0x6#4 x nn
  | .addImm x nn => encXNN 0x7#4 x nn
  | .ldReg x y => encXYN 0x8#4 x y 0x0#4
  | .orReg x y => encXYN 0x8#4 x y 0x1#4
  | .andReg x y => encXYN 0x8#4 x y 0x2#4
  | .xorReg x y => encXYN 0x8#4 x y 0x3#4
  | .addReg x y => encXYN 0x8#4 x y 0x4#4
  | .subReg x y => encXYN 0x8#4 x y 0x5#4
  | .shr x y => encXYN 0x8#4 x y 0x6#4
  | .subnReg x y => encXYN 0x8#4 x y 0x7#4
  | .shl x y => encXYN 0x8#4 x y 0xE#4
  | .sneReg x y => encXYN 0x9#4 x y 0x0#4
  | .ldI nnn => encNNN 0xA#4 nnn
  | .jpV0 nnn => encNNN 0xB#4 nnn
  | .rnd x nn => encXNN 0xC#4 x nn
  | .drw x y n => encXYN 0xD#4 x y n
  | .skp x => encXNN 0xE#4 x 0x9E#8
  | .sknp x => encXNN 0xE#4 x 0xA1#8
  | .ldVxDT x => encXNN 0xF#4 x 0x07#8
  | .ldVxK x => encXNN 0xF#4 x 0x0A#8
  | .ldDTVx x => encXNN 0xF#4 x 0x15#8
  | .ldSTVx x => encXNN 0xF#4 x 0x18#8
  | .addI x => encXNN 0xF#4 x 0x1E#8
  | .ldF x => encXNN 0xF#4 x 0x29#8
  | .ldB x => encXNN 0xF#4 x 0x33#8
  | .storeRegs x => encXNN 0xF#4 x 0x55#8
  | .loadRegs x => encXNN 0xF#4 x 0x65#8

/-! ### The opcode map as numbers (30_encoding.md R95) -/

/-- The `match` column of a row. -/
def Instr.rowMatch : Instr → Word
  | .cls => 0x00E0#16
  | .ret => 0x00EE#16
  | .sys _ => 0x0000#16
  | .jp _ => 0x1000#16
  | .call _ => 0x2000#16
  | .seImm _ _ => 0x3000#16
  | .sneImm _ _ => 0x4000#16
  | .seReg _ _ => 0x5000#16
  | .ldImm _ _ => 0x6000#16
  | .addImm _ _ => 0x7000#16
  | .ldReg _ _ => 0x8000#16
  | .orReg _ _ => 0x8001#16
  | .andReg _ _ => 0x8002#16
  | .xorReg _ _ => 0x8003#16
  | .addReg _ _ => 0x8004#16
  | .subReg _ _ => 0x8005#16
  | .shr _ _ => 0x8006#16
  | .subnReg _ _ => 0x8007#16
  | .shl _ _ => 0x800E#16
  | .sneReg _ _ => 0x9000#16
  | .ldI _ => 0xA000#16
  | .jpV0 _ => 0xB000#16
  | .rnd _ _ => 0xC000#16
  | .drw _ _ _ => 0xD000#16
  | .skp _ => 0xE09E#16
  | .sknp _ => 0xE0A1#16
  | .ldVxDT _ => 0xF007#16
  | .ldVxK _ => 0xF00A#16
  | .ldDTVx _ => 0xF015#16
  | .ldSTVx _ => 0xF018#16
  | .addI _ => 0xF01E#16
  | .ldF _ => 0xF029#16
  | .ldB _ => 0xF033#16
  | .storeRegs _ => 0xF055#16
  | .loadRegs _ => 0xF065#16

/-- The `mask` column of a row: the bits that select it. -/
def Instr.rowMask : Instr → Word
  | .cls => 0xFFFF#16
  | .ret => 0xFFFF#16
  | .sys _ => 0xF000#16
  | .jp _ => 0xF000#16
  | .call _ => 0xF000#16
  | .seImm _ _ => 0xF000#16
  | .sneImm _ _ => 0xF000#16
  | .seReg _ _ => 0xF00F#16
  | .ldImm _ _ => 0xF000#16
  | .addImm _ _ => 0xF000#16
  | .ldReg _ _ => 0xF00F#16
  | .orReg _ _ => 0xF00F#16
  | .andReg _ _ => 0xF00F#16
  | .xorReg _ _ => 0xF00F#16
  | .addReg _ _ => 0xF00F#16
  | .subReg _ _ => 0xF00F#16
  | .shr _ _ => 0xF00F#16
  | .subnReg _ _ => 0xF00F#16
  | .shl _ _ => 0xF00F#16
  | .sneReg _ _ => 0xF00F#16
  | .ldI _ => 0xF000#16
  | .jpV0 _ => 0xF000#16
  | .rnd _ _ => 0xF000#16
  | .drw _ _ _ => 0xF000#16
  | .skp _ => 0xF0FF#16
  | .sknp _ => 0xF0FF#16
  | .ldVxDT _ => 0xF0FF#16
  | .ldVxK _ => 0xF0FF#16
  | .ldDTVx _ => 0xF0FF#16
  | .ldSTVx _ => 0xF0FF#16
  | .addI _ => 0xF0FF#16
  | .ldF _ => 0xF0FF#16
  | .ldB _ => 0xF0FF#16
  | .storeRegs _ => 0xF0FF#16
  | .loadRegs _ => 0xF0FF#16

/-- The operand bits of a word, each field shifted to its place: `X << 8`, `Y << 4`, `N`, `NN`, `NNN` (30_encoding.md
R102). -/
def Instr.operandBits : Instr → Word
  | .cls => 0x0000#16
  | .ret => 0x0000#16
  | .sys nnn => nnn.setWidth 16
  | .jp nnn => nnn.setWidth 16
  | .call nnn => nnn.setWidth 16
  | .seImm x nn => BitVec.ofNat 16 x.val <<< 8 ||| nn.setWidth 16
  | .sneImm x nn => BitVec.ofNat 16 x.val <<< 8 ||| nn.setWidth 16
  | .seReg x y => BitVec.ofNat 16 x.val <<< 8 ||| BitVec.ofNat 16 y.val <<< 4
  | .ldImm x nn => BitVec.ofNat 16 x.val <<< 8 ||| nn.setWidth 16
  | .addImm x nn => BitVec.ofNat 16 x.val <<< 8 ||| nn.setWidth 16
  | .ldReg x y => BitVec.ofNat 16 x.val <<< 8 ||| BitVec.ofNat 16 y.val <<< 4
  | .orReg x y => BitVec.ofNat 16 x.val <<< 8 ||| BitVec.ofNat 16 y.val <<< 4
  | .andReg x y => BitVec.ofNat 16 x.val <<< 8 ||| BitVec.ofNat 16 y.val <<< 4
  | .xorReg x y => BitVec.ofNat 16 x.val <<< 8 ||| BitVec.ofNat 16 y.val <<< 4
  | .addReg x y => BitVec.ofNat 16 x.val <<< 8 ||| BitVec.ofNat 16 y.val <<< 4
  | .subReg x y => BitVec.ofNat 16 x.val <<< 8 ||| BitVec.ofNat 16 y.val <<< 4
  | .shr x y => BitVec.ofNat 16 x.val <<< 8 ||| BitVec.ofNat 16 y.val <<< 4
  | .subnReg x y => BitVec.ofNat 16 x.val <<< 8 ||| BitVec.ofNat 16 y.val <<< 4
  | .shl x y => BitVec.ofNat 16 x.val <<< 8 ||| BitVec.ofNat 16 y.val <<< 4
  | .sneReg x y => BitVec.ofNat 16 x.val <<< 8 ||| BitVec.ofNat 16 y.val <<< 4
  | .ldI nnn => nnn.setWidth 16
  | .jpV0 nnn => nnn.setWidth 16
  | .rnd x nn => BitVec.ofNat 16 x.val <<< 8 ||| nn.setWidth 16
  | .drw x y n => BitVec.ofNat 16 x.val <<< 8 ||| BitVec.ofNat 16 y.val <<< 4 ||| n.setWidth 16
  | .skp x => BitVec.ofNat 16 x.val <<< 8
  | .sknp x => BitVec.ofNat 16 x.val <<< 8
  | .ldVxDT x => BitVec.ofNat 16 x.val <<< 8
  | .ldVxK x => BitVec.ofNat 16 x.val <<< 8
  | .ldDTVx x => BitVec.ofNat 16 x.val <<< 8
  | .ldSTVx x => BitVec.ofNat 16 x.val <<< 8
  | .addI x => BitVec.ofNat 16 x.val <<< 8
  | .ldF x => BitVec.ofNat 16 x.val <<< 8
  | .ldB x => BitVec.ofNat 16 x.val <<< 8
  | .storeRegs x => BitVec.ofNat 16 x.val <<< 8
  | .loadRegs x => BitVec.ofNat 16 x.val <<< 8

/-- A word's two bytes in memory order (20_memory.md R64, 30_encoding.md R102). -/
def wordBytes (w : Word) : List Byte := [w.extractLsb' 8 8, w.extractLsb' 0 8]

/-- An instruction's two bytes in memory order. -/
def encodeBytes (i : Instr) : List Byte := wordBytes (encode i)

/-- The word a table row's `nbits` bits stand for: every bit above `nbits` is 0. -/
def tableWord (nbits w : Nat) : Word := BitVec.ofNat 16 (w % 2 ^ nbits)

/-- What the decoder reads from the instruction whose bits are `w`, laid out in memory as the hardware stores it. -/
def decodeTableWord (nbits w : Nat) : Option Instr :=
  match decodeBytes (wordBytes (tableWord nbits w)) with
  | .ok (i, _) => some i
  | .error _ => none

end Sys2Proof
end

