-- ==== Sys2Proof/Config.lean ====
section
/-! DEFINITION. The free value of CORE and its two OPEN parameters (00_scope.md R6). The parameters the spec fixes stand as
numbers where a rule uses them. -/

namespace Sys2Proof

/-- The random bytes the environment supplies as `rnd`, the n-th one used being `Config.randomByte n`
(60_exceptions.md R216, 10_state.md R36). It has no body: a claim holds for every stream of bytes.
DESIGN CHOICE, safe: notes/assumptions/3.md. -/
opaque Config.randomByte : Nat → Byte

/-- The two OPEN parameters of CORE, as the argument the spec makes of them (00_scope.md R6; 92_eei_decisions.md, "Open
parameters, collected"). The state carries them and nothing changes them, so what is said of every state is said of every
`FONT` and every `RESET_MEM_FILL`. -/
structure Params where
  /-- `FONT`, the 80 bytes of the font table (20_memory.md R73). -/
  font : Vector Byte 80
  /-- `RESET_MEM_FILL`, as the list of its values (92_eei_decisions.md D3). It is read by `fillByte`
  (Sys2Proof/Machine/Params.lean). -/
  fill : List (Nat × Byte)
  deriving DecidableEq, Repr

end Sys2Proof
end

