-- ==== Sys2Proof/Machine/Params.lean ====
section
/-! DEFINITION. What the two OPEN parameters of CORE say of memory after reset, and the values `State.reset` takes for
them (00_scope.md R6, 10_state.md R39, 20_memory.md R73). -/

namespace Sys2Proof.Machine

/-- `RESET_MEM_FILL(a)`: the first value listed for `a`, and 0x00 for an address not listed. Every function from addresses
to bytes is the function of some list. -/
def fillByte : List (Nat × Byte) → Nat → Byte
  | [], _ => 0x00#8
  | (b, v) :: l, a => if a = b then v else fillByte l a

/-- The contents of address `a` after `Reset()`: the font table, and above it `RESET_MEM_FILL` (10_state.md R39). -/
def resetByte (p : Params) (a : Nat) : Byte := if h : a < 80 then p.font[a] else fillByte p.fill a

/-- The default of `FONT`, five bytes a glyph (20_memory.md R73). PRESUMED, unsafe where a claim is about `State.reset`
alone: the spec gives these values from general knowledge; notes/assumptions/1.md. -/
def defaultFont : Vector Byte 80 :=
  (#v[0xF0#8, 0x90#8, 0x90#8, 0x90#8, 0xF0#8] ++ #v[0x20#8, 0x60#8, 0x20#8, 0x20#8, 0x70#8] ++
   #v[0xF0#8, 0x10#8, 0xF0#8, 0x80#8, 0xF0#8] ++ #v[0xF0#8, 0x10#8, 0xF0#8, 0x10#8, 0xF0#8] ++
   #v[0x90#8, 0x90#8, 0xF0#8, 0x10#8, 0x10#8] ++ #v[0xF0#8, 0x80#8, 0xF0#8, 0x10#8, 0xF0#8] ++
   #v[0xF0#8, 0x80#8, 0xF0#8, 0x90#8, 0xF0#8] ++ #v[0xF0#8, 0x10#8, 0x20#8, 0x40#8, 0x40#8]) ++
  (#v[0xF0#8, 0x90#8, 0xF0#8, 0x90#8, 0xF0#8] ++ #v[0xF0#8, 0x90#8, 0xF0#8, 0x10#8, 0xF0#8] ++
   #v[0xF0#8, 0x90#8, 0xF0#8, 0x90#8, 0x90#8] ++ #v[0xE0#8, 0x90#8, 0xE0#8, 0x90#8, 0xE0#8] ++
   #v[0xF0#8, 0x80#8, 0x80#8, 0x80#8, 0xF0#8] ++ #v[0xE0#8, 0x90#8, 0x90#8, 0x90#8, 0xE0#8] ++
   #v[0xF0#8, 0x80#8, 0xF0#8, 0x80#8, 0xF0#8] ++ #v[0xF0#8, 0x80#8, 0xF0#8, 0x80#8, 0x80#8])

/-- The parameters `State.reset` takes: the default `FONT`, and `RESET_MEM_FILL` 0x00 everywhere, which the spec recommends
(92_eei_decisions.md D3). DESIGN CHOICE, unsafe where a claim is about `State.reset` alone; notes/assumptions/2.md. -/
def defaultParams : Params where
  font := defaultFont
  fill := []

end Sys2Proof.Machine
end

