-- ==== Sys2Proof/Machine/State.lean ====
section
/-! DEFINITION. The state of CORE as plain data (10_state.md), the reasons a step can stop, and the state after
`Reset()` (10_state.md R39). -/

namespace Sys2Proof.Machine

/-- The error code `ERR` holds. The spec allows an enumeration for the numbers 0 to 3 (10_state.md R33, 60_exceptions.md
R200; its decision D9). -/
inductive ErrCode where
  /-- 0: no error. -/
  | noError
  /-- 1: `StackOverflow`, raised by `2NNN` with 16 entries on the stack. -/
  | stackOverflow
  /-- 2: `StackUnderflow`, raised by `00EE` with an empty stack. -/
  | stackUnderflow
  /-- 3: `UnknownOpcode`, raised by an illegal word and by `0NNN`. -/
  | unknownOpcode
  deriving DecidableEq, Repr

/-- The number of an error code (60_exceptions.md R200). -/
def ErrCode.code : ErrCode → Nat
  | .noError => 0
  | .stackOverflow => 1
  | .stackUnderflow => 2
  | .unknownOpcode => 3

/-- Why a step stops with a fault. CORE has no such case: its three errors are states that the spec describes
(60_exceptions.md R202) and its list of errors is closed (R208), so no constructor stands here. Safe: nothing raises it. -/
inductive Fault where
  deriving DecidableEq, Repr

/-- Why an instruction has no meaning. -/
inductive Refusal where
  /-- Raised by an arm of `exec` for an instruction that is not modelled. No arm does: every instruction has its
  meaning. Safe. -/
  | notModelled (mnemonic : String)
  deriving DecidableEq, Repr

/-- Everything the spec gives CORE (10_state.md R20 to R37). `draws` and
`params` alone are the model's own. -/
structure State where
  /-- `V[0]` to `V[15]` (R20). -/
  v : Vector Byte 16
  /-- The index register `I` (R24). -/
  i : Word
  /-- The program counter `PC` (R25). -/
  pc : Word
  /-- `SP`, the number of valid stack entries, 0 to 16 (R26). -/
  sp : Fin 17
  /-- `STACK[0]` to `STACK[15]` (R26). -/
  stack : Vector Word 16
  /-- The delay timer `DT` (R27). -/
  dt : Byte
  /-- The sound timer `ST` (R27). -/
  st : Byte
  /-- `KEYS`, bit `k` set while key `k` is pressed (R29). -/
  keys : Word
  /-- `DISP`, row `y` at index `y`, the cell of column `x` at bit `63 - x` (R30). -/
  disp : Vector Row 32
  /-- `DRAW_FLAG` (R31). -/
  drawFlag : Bool
  /-- `WAIT` (R32). -/
  wait : Bool
  /-- `KEY_PREV` (R32). -/
  keyPrev : Word
  /-- `HALT` (R33). -/
  halt : Bool
  /-- `ERR` (R33). -/
  err : ErrCode
  /-- `ERR_OPCODE` (R33). -/
  errOpcode : Word
  /-- `MEM` (R34): the cells that differ from their reset contents, addresses strictly rising. -/
  mem : List Host.Cell
  /-- The model's own: how many random bytes `CXNN` has used, the index of the next one in `Config.randomByte`. -/
  draws : Nat
  /-- The model's own: the OPEN parameters of this CORE, which nothing changes (00_scope.md R6). -/
  params : Params
  deriving DecidableEq, Repr

/-- What a step of the engine answers. -/
abbrev Result := Host.Outcome State Fault Refusal

/-- The state `Reset()` leaves in a CORE with parameters `p` (10_state.md R39). Memory lists nothing: an unlisted address
reads its reset contents. -/
def State.resetWith (p : Params) : State where
  v := Vector.replicate 16 0x00#8
  i := 0x0000#16
  pc := 0x0200#16
  sp := 0
  stack := Vector.replicate 16 0x0000#16
  dt := 0x00#8
  st := 0x00#8
  keys := 0x0000#16
  disp := Vector.replicate 32 0#64
  drawFlag := false
  wait := false
  keyPrev := 0x0000#16
  halt := false
  err := .noError
  errOpcode := 0x0000#16
  mem := []
  draws := 0
  params := p

/-- The state `Reset()` leaves in the CORE with the default `FONT` and the recommended `RESET_MEM_FILL`. -/
def State.reset : State := State.resetWith defaultParams

end Sys2Proof.Machine
end

