-- ==== Sys2Proof/Machine/Flags.lean ====
section
/-! DEFINITION. The flag results of the arithmetic instructions: each is the byte 0 or 1 written to `VF`
(10_state.md R21, 42_alu.md R146 to R150). Carry and borrow come from the unbounded result (R152). -/

namespace Sys2Proof.Machine

/-- A flag as the byte `VF` receives. -/
def flagByte (b : Bool) : Byte := if b then 0x01#8 else 0x00#8

/-- Carry of `a + b`: the unsigned sum exceeds 255 (42_alu.md R146). -/
def carryFlag (a b : Byte) : Byte := flagByte (decide (a.toNat + b.toNat > 255))

/-- No borrow of `a - b`: `a ≥ b` (42_alu.md R147, R149). -/
def noBorrowFlag (a b : Byte) : Byte := flagByte (decide (a.toNat ≥ b.toNat))

/-- The bit a right shift loses, `a[0]` (42_alu.md R148). -/
def shrFlag (a : Byte) : Byte := flagByte (a.getLsbD 0)

/-- The bit a left shift loses, `a[7]` (42_alu.md R150). -/
def shlFlag (a : Byte) : Byte := flagByte (a.getLsbD 7)

end Sys2Proof.Machine
end

