-- ==== Sys2Proof/Machine/Memory.lean ====
section
/-! DEFINITION. The memory array (20_memory.md): reading and writing one byte, and the canonical form of the list
that holds it. An unlisted address reads its reset contents, `resetByte` of the parameters. -/

namespace Sys2Proof.Machine

/-- The byte at address `a`. The list is rising, so a later address ends the search. -/
def memGet (p : Params) : List Host.Cell → Nat → Byte
  | [], a => resetByte p a
  | (b, v) :: m, a => if a < b then resetByte p a else if a = b then v else memGet p m a

/-- A list whose first entry lies at `a` or above with the cell of `a` put before it; nothing is listed for the value
an unlisted address reads as. -/
def memCons (p : Params) (a : Nat) (v : Byte) (m : List Host.Cell) : List Host.Cell :=
  if v = resetByte p a then m else (a, v) :: m

/-- Store `v` at address `a`, keeping the canonical form. On a rising list the `dropWhile` drops at most the old cell
of `a`; written so, the two laws of reading after writing hold of every list. -/
def memSet (p : Params) : List Host.Cell → Nat → Byte → List Host.Cell
  | [], a, v => memCons p a v []
  | (b, w) :: m, a, v =>
    if b < a then (b, w) :: memSet p m a v
    else memCons p a v (((b, w) :: m).dropWhile fun c => decide (c.1 ≤ a))

/-- The canonical form from address `lo` on: addresses strictly rising, inside the 4096 bytes (20_memory.md R60), and no
entry equal to what an unlisted address reads as. -/
def memWfFrom (p : Params) (lo : Nat) : List Host.Cell → Bool
  | [] => true
  | (a, v) :: m => decide (lo ≤ a) && decide (a < 4096) && decide (v ≠ resetByte p a) && memWfFrom p (a + 1) m

/-- The canonical form of the memory list. -/
def Memory.wf (p : Params) (m : List Host.Cell) : Bool := memWfFrom p 0 m

end Sys2Proof.Machine
end

