-- ==== Sys2Proof/Machine/Operands.lean ====
section
/-! DEFINITION. The operand forms (30_encoding.md R93): a general register, the index register as a memory base, the
memory byte at a computed address, the key a register selects, the start cell of a sprite, the address of the next
instruction. All of them read the state before the instruction (10_state.md R22). -/

namespace Sys2Proof.Machine

/-- `V[r]` (10_state.md R20). -/
def State.reg (s : State) (r : Reg) : Byte := s.v[r.val]

/-- `VF`, the flag register `V[15]` (10_state.md R21). -/
def vf : Reg := 15

/-- `npc`, `(PC + 2) mod 65536` (30_encoding.md R90). -/
def State.npc (s : State) : Word := s.pc + 2#16

/-- `MemRead(addr, 1)`: the byte at `addr mod 4096` (20_memory.md R63). -/
def State.memRead (s : State) (addr : Nat) : Byte := memGet s.params s.mem (addr % 4096)

/-- Effective address `I + k` before the reduction modulo 4096 (20_memory.md R67). -/
def State.indexed (s : State) (k : Nat) : Nat := s.i.toNat + k

/-- The key that `V[x]` selects: its low nibble (41_skip.md R134; the spec's decision D13). -/
def State.keyOf (s : State) (x : Reg) : Nat := (s.reg x).toNat % 16

/-- `KEYS[k]` (10_state.md R29). -/
def State.keyDown (s : State) (k : Nat) : Bool := s.keys.getLsbD k

/-- Start column of a sprite, `V[x] mod 64` (44_display.md R171). -/
def State.spriteColumn (s : State) (x : Reg) : Nat := (s.reg x).toNat % 64

/-- Start row of a sprite, `V[y] mod 32` (44_display.md R171). -/
def State.spriteRow (s : State) (y : Reg) : Nat := (s.reg y).toNat % 32

/-- `DISP[y][x]`, the cell in column `x` and row `y`; off outside the 64 by 32 cells (10_state.md R30). -/
def State.cell (s : State) (x y : Nat) : Bool := if h : y < 32 then s.disp[y].getMsbD x else false

/-- The decimal digits of a byte: hundreds, tens, ones (43_index_memory.md R163). -/
def decimalDigits (v : Byte) : List Byte :=
  [BitVec.ofNat 8 (v.toNat / 100), BitVec.ofNat 8 (v.toNat / 10 % 10), BitVec.ofNat 8 (v.toNat % 10)]

end Sys2Proof.Machine
end

