-- ==== Sys2Proof/Machine/Ops.lean ====
section
/-! DEFINITION. The named operations over the state that the meanings are made of: writing registers and memory,
moving the program counter, the return stack, drawing, and taking an error (60_exceptions.md R202). -/

namespace Sys2Proof.Machine

/-! ### Registers and memory -/

/-- `V[r] <- b` (10_state.md R20). -/
def State.setReg (s : State) (r : Reg) (b : Byte) : State := { s with v := s.v.set r.val b }

/-- `I <- w`, all 16 bits (10_state.md R24). -/
def State.setI (s : State) (w : Word) : State := { s with i := w }

/-- `DT <- b` (10_state.md R27). -/
def State.setDT (s : State) (b : Byte) : State := { s with dt := b }

/-- `ST <- b` (10_state.md R27); the output `SOUND` follows (R28). -/
def State.setST (s : State) (b : Byte) : State := { s with st := b }

/-- `MemWrite(addr, 1, b)`: the byte at `addr mod 4096` (20_memory.md R63). -/
def State.memWrite (s : State) (addr : Nat) (b : Byte) : State := { s with mem := memSet s.params s.mem (addr % 4096) b }

/-- Store a list of bytes from address `addr` on, each address reduced by itself (20_memory.md R63). -/
def State.memWriteList (s : State) (addr : Nat) : List Byte → State
  | [] => s
  | b :: bs => (s.memWrite addr b).memWriteList (addr + 1) bs

/-- The registers `V[0]` to `V[x]`, in order (43_index_memory.md R164). -/
def State.regsUpTo (s : State) (x : Reg) : List Byte := s.v.toList.take (x.val + 1)

/-- Load `V[0]` to `V[x]` from the bytes at `addr` on (43_index_memory.md R165). -/
def State.loadRegsFrom (s : State) (addr : Nat) (x : Reg) : State :=
  { s with v := Vector.ofFn fun r => if r ≤ x then s.memRead (addr + r.val) else s.reg r }

/-! ### The program counter (10_state.md R25) -/

/-- `PC <- npc`. -/
def State.advance (s : State) : State := { s with pc := s.npc }

/-- `PC <- target`. -/
def State.jump (s : State) (target : Word) : State := { s with pc := target }

/-- A skip: `PC <- npc + 2` when the condition holds, else `PC <- npc` (41_skip.md). -/
def State.skipIf (s : State) (c : Bool) : State := if c then s.jump (s.npc + 2#16) else s.advance

/-! ### The return stack (10_state.md R26) -/

/-- Push, allowed when `SP < 16`: `STACK[SP] <- w; SP <- SP + 1`. -/
def State.push (s : State) (w : Word) : Option State :=
  if h : s.sp.val < 16 then some { s with stack := s.stack.set s.sp.val w, sp := ⟨s.sp.val + 1, by omega⟩ } else none

/-- Pop, allowed when `SP > 0`: `SP <- SP - 1`, answering the old `STACK[SP - 1]`; the slot keeps its content. -/
def State.pop (s : State) : Option (Word × State) :=
  if h : 0 < s.sp.val then some (s.stack[s.sp.val - 1], { s with sp := ⟨s.sp.val - 1, by omega⟩ }) else none

/-! ### Errors -/

/-- Error entry: the step's whole effect when the instruction with word `w` raises `e` (60_exceptions.md R202). There is
no return from it: only `Reset()` leaves the halted state (R205). -/
def State.raise (s : State) (e : ErrCode) (w : Word) : State := { s with halt := true, err := e, errOpcode := w }

/-! ### Two-register arithmetic -/

/-- Result to `V[x]`, then flag to `VF`: with `x = 15` the flag survives (42_alu.md R146, R147, R149; 10_state.md R22). -/
def State.resultThenFlag (s : State) (x : Reg) (result flag : Byte) : State := (s.setReg x result).setReg vf flag

/-- Flag to `VF`, then result to `V[x]`: with `x = 15` the result survives (42_alu.md R148, R150; 10_state.md R22). -/
def State.flagThenResult (s : State) (x : Reg) (result flag : Byte) : State := (s.setReg vf flag).setReg x result

/-! ### The display (44_display.md) -/

/-- All 2048 cells off. -/
def blankDisplay : Vector Row 32 := Vector.replicate 32 0#64

/-- A sprite byte placed in a row from column `x0` on: bit 7 at column `x0`, what passes column 63 is clipped (R171; bit
order PRESUMED by the spec's D11, notes/assumptions/4.md). -/
def spriteRowBits (x0 : Nat) (b : Byte) : Row := (b ++ 0#56) >>> x0

/-- The first `n` rows of a sprite at `I` drawn from column `x0` and row `y0` on: the display after, and whether a cell
that was on met a set bit. Rows below row 31 are clipped (R171). -/
def State.drawRows (s : State) (x0 y0 : Nat) : Nat → Vector Row 32 × Bool
  | 0 => (s.disp, false)
  | n + 1 =>
    let (d, hit) := s.drawRows x0 y0 n
    if h : y0 + n < 32 then
      let m := spriteRowBits x0 (s.memRead (s.indexed n))
      (d.set (y0 + n) (d[y0 + n] ^^^ m), hit || decide (d[y0 + n] &&& m ≠ 0#64))
    else (d, hit)

/-- Replace the display and set `DRAW_FLAG`, whether or not a cell changed (10_state.md R31). -/
def State.setDisplay (s : State) (d : Vector Row 32) : State := { s with disp := d, drawFlag := true }

/-! ### The key wait (45_timer_key.md R181) -/

/-- The keys down now that were up at the previous execution of `FX0A`. -/
def State.rise (s : State) : Word := s.keys &&& ~~~s.keyPrev

/-- The lowest set bit of a word, if any. -/
def lowestSet (w : Word) : Option Key := (List.finRange 16).find? fun k => w.getLsbD k.val

/-- `KEY_PREV <- KEYS` with the wait flag set as given. -/
def State.sampleKeys (s : State) (waiting : Bool) : State := { s with wait := waiting, keyPrev := s.keys }

end Sys2Proof.Machine
end

