-- ==== Sys2Proof/Machine/Alu.lean ====
section
/-! DEFINITION. Register loads, arithmetic, logic, shifts, random (42_alu.md). Both operands are read from the state
before the instruction (10_state.md R22); every one of them ends with `PC <- npc`. -/

namespace Sys2Proof.Machine

/-- `6XNN` LD Vx, NN (42_alu.md R140). -/
def execLdImm (x : Reg) (nn : Byte) (s : State) : Result := .next (s.setReg x nn).advance

/-- `7XNN` ADD Vx, NN: no flag (42_alu.md R141). -/
def execAddImm (x : Reg) (nn : Byte) (s : State) : Result := .next (s.setReg x (s.reg x + nn)).advance

/-- `8XY0` LD Vx, Vy (42_alu.md R142). -/
def execLdReg (x y : Reg) (s : State) : Result := .next (s.setReg x (s.reg y)).advance

/-- `8XY1` OR Vx, Vy: `VF` is not written (42_alu.md R143). -/
def execOrReg (x y : Reg) (s : State) : Result := .next (s.setReg x (s.reg x ||| s.reg y)).advance

/-- `8XY2` AND Vx, Vy: `VF` is not written (42_alu.md R144). -/
def execAndReg (x y : Reg) (s : State) : Result := .next (s.setReg x (s.reg x &&& s.reg y)).advance

/-- `8XY3` XOR Vx, Vy: `VF` is not written (42_alu.md R145). -/
def execXorReg (x y : Reg) (s : State) : Result := .next (s.setReg x (s.reg x ^^^ s.reg y)).advance

/-- `8XY4` ADD Vx, Vy: `VF` is the carry, written last (42_alu.md R146). -/
def execAddReg (x y : Reg) (s : State) : Result :=
  .next (s.resultThenFlag x (s.reg x + s.reg y) (carryFlag (s.reg x) (s.reg y))).advance

/-- `8XY5` SUB Vx, Vy: `VF` is no borrow, written last (42_alu.md R147). -/
def execSubReg (x y : Reg) (s : State) : Result :=
  .next (s.resultThenFlag x (s.reg x - s.reg y) (noBorrowFlag (s.reg x) (s.reg y))).advance

/-- `8XY6` SHR Vx: shifts `V[x]`, ignores `Y`; `VF` is written first (42_alu.md R148). -/
def execShr (x _y : Reg) (s : State) : Result :=
  .next (s.flagThenResult x (s.reg x >>> 1) (shrFlag (s.reg x))).advance

/-- `8XY7` SUBN Vx, Vy: `V[y] - V[x]`; `VF` is no borrow, written last (42_alu.md R149). -/
def execSubnReg (x y : Reg) (s : State) : Result :=
  .next (s.resultThenFlag x (s.reg y - s.reg x) (noBorrowFlag (s.reg y) (s.reg x))).advance

/-- `8XYE` SHL Vx: shifts `V[x]`, ignores `Y`; `VF` is written first (42_alu.md R150). -/
def execShl (x _y : Reg) (s : State) : Result :=
  .next (s.flagThenResult x (s.reg x <<< 1) (shlFlag (s.reg x))).advance

/-- The state once one more random byte is used. -/
def State.drawRandom (s : State) : State := { s with draws := s.draws + 1 }

/-- `CXNN` RND Vx, NN: `rnd & NN`, with `rnd` the next byte of the stream the environment supplies (42_alu.md R151,
60_exceptions.md R216). -/
def execRnd (x : Reg) (nn : Byte) (s : State) : Result :=
  .next (s.drawRandom.setReg x (Config.randomByte s.draws &&& nn)).advance

end Sys2Proof.Machine
end

