-- ==== Sys2Proof/Machine/Display.lean ====
section
/-! DEFINITION. The display instructions CLS and DRW (44_display.md). -/

namespace Sys2Proof.Machine

/-- `00E0` CLS (44_display.md R170). -/
def execCls (s : State) : Result := .next (s.setDisplay blankDisplay).advance

/-- `DXYN` DRW Vx, Vy, N: `VF` is the collision, written once at the end (44_display.md R171). -/
def execDrw (x y : Reg) (n : BitVec 4) (s : State) : Result :=
  let drawn := s.drawRows (s.spriteColumn x) (s.spriteRow y) n.toNat
  .next ((s.setDisplay drawn.1).setReg vf (flagByte drawn.2)).advance

end Sys2Proof.Machine
end

