-- ==== Sys2Proof/Machine/Flow.lean ====
section
/-! DEFINITION. Control transfer: RET, SYS, JP, CALL, JP V0 (40_flow.md). -/

namespace Sys2Proof.Machine

/-- `00EE` RET (40_flow.md R120). -/
def execRet (s : State) : Result :=
  match s.pop with
  | some (target, t) => .next (t.jump target)
  | none => .next (s.raise .stackUnderflow (encode .ret))

/-- `0NNN` SYS: always raises `UnknownOpcode` (40_flow.md R121, 30_encoding.md R98). -/
def execSys (nnn : BitVec 12) (s : State) : Result := .next (s.raise .unknownOpcode (encode (.sys nnn)))

/-- `1NNN` JP NNN (40_flow.md R122). -/
def execJp (nnn : BitVec 12) (s : State) : Result := .next (s.jump (nnn.setWidth 16))

/-- `2NNN` CALL NNN: `npc` is pushed (40_flow.md R123). -/
def execCall (nnn : BitVec 12) (s : State) : Result :=
  match s.push s.npc with
  | some t => .next (t.jump (nnn.setWidth 16))
  | none => .next (s.raise .stackOverflow (encode (.call nnn)))

/-- `BNNN` JP V0, NNN (40_flow.md R124). -/
def execJpV0 (nnn : BitVec 12) (s : State) : Result := .next (s.jump (nnn.setWidth 16 + (s.reg 0).setWidth 16))

end Sys2Proof.Machine
end

