-- ==== Sys2Proof/Machine/IndexMemory.lean ====
section
/-! DEFINITION. The index register and memory: LD I, ADD I, LD F, LD B, LD [I], LD Vx, [I] (43_index_memory.md). -/

namespace Sys2Proof.Machine

/-- `ANNN` LD I, NNN (43_index_memory.md R160). -/
def execLdI (nnn : BitVec 12) (s : State) : Result := .next (s.setI (nnn.setWidth 16)).advance

/-- `FX1E` ADD I, Vx: 16-bit wrap, no flag (43_index_memory.md R161). -/
def execAddI (x : Reg) (s : State) : Result := .next (s.setI (s.i + (s.reg x).setWidth 16)).advance

/-- `FX29` LD F, Vx: `V[x] * 5`, all 8 bits used (43_index_memory.md R162). -/
def execLdF (x : Reg) (s : State) : Result := .next (s.setI ((s.reg x).setWidth 16 * 5#16)).advance

/-- `FX33` LD B, Vx: three decimal digits at `I` (43_index_memory.md R163). -/
def execLdB (x : Reg) (s : State) : Result :=
  .next (s.memWriteList (s.indexed 0) (decimalDigits (s.reg x))).advance

/-- `I <- (I + X + 1) mod 65536` (43_index_memory.md R164, R165). -/
def State.bumpI (s : State) (x : Reg) : State := s.setI (s.i + BitVec.ofNat 16 (x.val + 1))

/-- `FX55` LD [I], Vx: store `V[0]` to `V[x]` and advance `I` (43_index_memory.md R164). -/
def execStoreRegs (x : Reg) (s : State) : Result :=
  .next ((s.memWriteList (s.indexed 0) (s.regsUpTo x)).bumpI x).advance

/-- `FX65` LD Vx, [I]: load `V[0]` to `V[x]` and advance `I` (43_index_memory.md R165). -/
def execLoadRegs (x : Reg) (s : State) : Result := .next ((s.loadRegsFrom (s.indexed 0) x).bumpI x).advance

end Sys2Proof.Machine
end

