-- ==== Sys2Proof/Machine/Skip.lean ====
section
/-! DEFINITION. The conditional skips SE, SNE, SKP, SKNP (41_skip.md). A skip's whole write-set is `PC`. -/

namespace Sys2Proof.Machine

/-- `3XNN` SE Vx, NN (41_skip.md R130). -/
def execSeImm (x : Reg) (nn : Byte) (s : State) : Result := .next (s.skipIf (s.reg x == nn))

/-- `4XNN` SNE Vx, NN (41_skip.md R131). -/
def execSneImm (x : Reg) (nn : Byte) (s : State) : Result := .next (s.skipIf (s.reg x != nn))

/-- `5XY0` SE Vx, Vy (41_skip.md R132). -/
def execSeReg (x y : Reg) (s : State) : Result := .next (s.skipIf (s.reg x == s.reg y))

/-- `9XY0` SNE Vx, Vy (41_skip.md R133). -/
def execSneReg (x y : Reg) (s : State) : Result := .next (s.skipIf (s.reg x != s.reg y))

/-- `EX9E` SKP Vx (41_skip.md R134). -/
def execSkp (x : Reg) (s : State) : Result := .next (s.skipIf (s.keyDown (s.keyOf x)))

/-- `EXA1` SKNP Vx (41_skip.md R135). -/
def execSknp (x : Reg) (s : State) : Result := .next (s.skipIf (!s.keyDown (s.keyOf x)))

end Sys2Proof.Machine
end

