-- ==== Sys2Proof/Machine/TimerKey.lean ====
section
/-! DEFINITION. Timer and keypad register instructions: LD Vx, DT; LD Vx, K; LD DT, Vx; LD ST, Vx (45_timer_key.md).
Which of the three words moves which timer is the spec's decision D15, from general knowledge: PRESUMED,
notes/assumptions/5.md. -/

namespace Sys2Proof.Machine

/-- `FX07` LD Vx, DT (45_timer_key.md R180). -/
def execLdVxDT (x : Reg) (s : State) : Result := .next (s.setReg x s.dt).advance

/-- `FX0A` LD Vx, K: completes only on a second execution that sees a fresh press, else keeps `PC` and waits; the keys are
sampled in both branches (45_timer_key.md R181). -/
def execLdVxK (x : Reg) (s : State) : Result :=
  match (if s.wait then lowestSet s.rise else none) with
  | some k => .next ((s.sampleKeys false).setReg x (BitVec.ofNat 8 k.val)).advance
  | none => .next (s.sampleKeys true)

/-- `FX15` LD DT, Vx (45_timer_key.md R182). -/
def execLdDTVx (x : Reg) (s : State) : Result := .next (s.setDT (s.reg x)).advance

/-- `FX18` LD ST, Vx (45_timer_key.md R183). -/
def execLdSTVx (x : Reg) (s : State) : Result := .next (s.setST (s.reg x)).advance

end Sys2Proof.Machine
end

