-- ==== Sys2Proof/Machine/Engine.lean ====
section
/-! DEFINITION. The step of the engine: halt check, fetch, decode, execute (30_encoding.md R90), and how an instruction
is placed where the next step fetches it. Sys2Proof/Machine/Step.lean gives these the names the host fixes. -/

namespace Sys2Proof.Machine

/-- The fetched word: the byte at `PC` in bits 15:8, the byte at `PC + 1` in bits 7:0 (20_memory.md R64, R65). -/
def State.fetch (s : State) : Word := s.memRead s.pc.toNat ++ s.memRead (s.pc.toNat + 1)

/-- `Step`, with the random byte taken from the stream of `Config.randomByte` when `CXNN` asks for it (30_encoding.md
R90). A halted engine changes nothing (60_exceptions.md R204); a word outside the opcode map takes the error entry with
itself as `ERR_OPCODE` (30_encoding.md R96). -/
def engineStep (s : State) : Result :=
  if s.halt then .next s
  else
    match decode s.fetch with
    | .ok i => exec i s
    | .error _ => .next (s.raise .unknownOpcode s.fetch)

/-- A state whose engine is not halted: a halted one takes the reset values of its three error registers. -/
def State.unhalted (s : State) : State :=
  if s.halt then { s with halt := false, err := .noError, errOpcode := 0x0000#16 } else s

/-- The two bytes of a word stored at `PC` and `PC + 1`. -/
def State.placeWord (s : State) (w : Word) : State := s.memWriteList s.pc.toNat (wordBytes w)

end Sys2Proof.Machine
end

