-- ==== Sys2Proof/Machine/Step.lean ====
section
/-! DEFINITION. The step and the placing of one instruction, under the names the host fixes; their bodies are in
Sys2Proof/Machine/Engine.lean. -/

namespace Sys2Proof.Machine

/-- One `Step` of CORE (30_encoding.md R90). The status it answers is `stepStatus` of the next state
(Sys2Proof/Machine/Interface.lean). -/
def step (s : State) : Host.Outcome State Fault Refusal := engineStep s

/-- `s` with one table row's instruction stored where `step` fetches next. A halted engine fetches nothing, so a halted
`s` is also unhalted; nothing else changes (notes/assumptions/7.md). -/
def State.withFetchWord (s : State) (nbits w : Nat) : State := s.unhalted.placeWord (tableWord nbits w)

end Sys2Proof.Machine
end

