-- ==== Sys2Proof/Machine/Interface.lean ====
section
/-! DEFINITION. The operations of CORE besides `Step`, its outputs, and the system of CORE and its environment: any list
of operations, one at a time, in the boot order (00_scope.md R9, R10; 60_exceptions.md R210 to R216;
70_reset_and_hazards.md R240 to R242, R249, R256). -/

namespace Sys2Proof.Machine

/-! ### Outputs -/

/-- The output `SOUND`: `ST > 0` (10_state.md R28). -/
def State.sound (s : State) : Bool := decide (s.st.toNat > 0)

/-- What `Step` answers (00_scope.md R9). -/
inductive Status where
  | ok
  | waitingForKey
  | halted (code : Nat) (opcode : Word)
  deriving DecidableEq, Repr

/-- The status a `Step` that leaves `s` answers (30_encoding.md R90). -/
def stepStatus (s : State) : Status :=
  if s.halt then .halted s.err.code s.errOpcode else if s.wait then .waitingForKey else .ok

/-- What `ReadDisplay()` answers: 2048 cells, the cell of column `x` and row `y` at `y * 64 + x` (44_display.md R172). -/
def State.readDisplay (s : State) : List Bool :=
  (List.range 2048).map fun k => s.cell (k % 64) (k / 64)

/-! ### Operations -/

/-- A timer's decrement: 0 stays 0 (60_exceptions.md R210). -/
def countDown (t : Byte) : Byte := if t.toNat > 0 then t - 1#8 else t

/-- `Tick()`: both timers, independently (60_exceptions.md R210). -/
def State.tick (s : State) : State := { s with dt := countDown s.dt, st := countDown s.st }

/-- `n` consecutive `Tick()` operations: the timer ticker when `n` whole intervals have elapsed (60_exceptions.md R211). -/
def State.ticks (s : State) : Nat → State
  | 0 => s
  | n + 1 => (s.ticks n).tick

/-- `SetKey(k, b)`: `KEYS[k] <- b` (60_exceptions.md R213). -/
def State.setKey (s : State) (k : Key) (b : Bool) : State :=
  { s with keys := if b then s.keys ||| (1#16 <<< k.val) else s.keys &&& ~~~(1#16 <<< k.val) }

/-- `ClearDrawFlag()` (60_exceptions.md R214). -/
def State.clearDrawFlag (s : State) : State := { s with drawFlag := false }

/-- `Reset()` (70_reset_and_hazards.md R240). The random source lies outside CORE and is not affected (10_state.md R36),
nor are the parameters of CORE. -/
def State.doReset (s : State) : State := { State.resetWith s.params with draws := s.draws }

/-- `Load(bytes)`: `none` is `RomTooLarge`, with no state change (70_reset_and_hazards.md R241). -/
def State.load (s : State) (bytes : List Byte) : Option State :=
  if bytes.length > 3584 then none else some (s.memWriteList 0x200 bytes)

/-! ### The system -/

/-- One operation of the environment (00_scope.md R9). -/
inductive Op where
  | reset
  | load (bytes : List Byte)
  | step
  | tick
  | setKey (k : Key) (b : Bool)
  | readDisplay
  | clearDrawFlag
  deriving DecidableEq, Repr

/-- What an operation answers. -/
inductive Answer where
  | done
  | romTooLarge
  | status (st : Status)
  | cells (c : List Bool)
  deriving DecidableEq, Repr

/-- Where the boot order stands (70_reset_and_hazards.md R242). -/
inductive Phase where
  /-- No `Reset()` yet: no operation but `Reset()` is defined. -/
  | unbooted
  /-- After `Reset()`, with nothing applied since but failed `Load`s: CORE is in the state `Reset()` leaves, the only one in
  which `Load` is defined. -/
  | fresh
  /-- After a successful `Load`, or any of the operations that follow it in the order: `Load` is no longer a move. -/
  | running
  deriving DecidableEq, Repr

/-- CORE with the boot order of its environment. -/
structure System where
  core : State
  phase : Phase
  deriving DecidableEq, Repr

/-- Before the first `Reset()`. The state is unspecified there (70_reset_and_hazards.md R242), so it is an argument. -/
def System.powerOn (s : State) : System := ⟨s, .unbooted⟩

/-- One operation; `none` where the environment has no such move (70_reset_and_hazards.md R242, R256). -/
def System.apply (sys : System) (op : Op) : Option (System × Answer) :=
  match sys.phase, op with
  | _, .reset => some (⟨sys.core.doReset, .fresh⟩, .done)
  | .unbooted, _ => none
  | .running, .load _ => none
  | .fresh, .load bytes =>
    match sys.core.load bytes with
    | some t => some (⟨t, .running⟩, .done)
    | none => some (sys, .romTooLarge)
  | _, .step =>
    match step sys.core with
    | .next t => some (⟨t, .running⟩, .status (stepStatus t))
    | .fault _ => none
    | .refused _ => none
  | _, .tick => some (⟨sys.core.tick, .running⟩, .done)
  | _, .setKey k b => some (⟨sys.core.setKey k b, .running⟩, .done)
  | _, .readDisplay => some (⟨sys.core, .running⟩, .cells sys.core.readDisplay)
  | _, .clearDrawFlag => some (⟨sys.core.clearDrawFlag, .running⟩, .done)

/-- Any list of operations, one at a time: every interleaving is admissible (70_reset_and_hazards.md R249). -/
def System.run (sys : System) : List Op → Option System
  | [] => some sys
  | op :: ops =>
    match sys.apply op with
    | some (next, _) => next.run ops
    | none => none

end Sys2Proof.Machine
end

