-- ==== Sys2Proof/Safety.lean ====
section
/-! DEFINITION. What counts as a safe state and a good end, and the invariant every operation keeps (10_state.md R40,
70_reset_and_hazards.md R255). -/

namespace Sys2Proof.Machine

/-- The engine is not halted: no error has been raised since the last `Reset()`. A halted state is an end the spec calls
an error, never a good end (70_reset_and_hazards.md R255). -/
def State.Running (s : State) : Prop := s.halt = false

/-- A good end of a run, by the spec's convention: the word at `PC` jumps to itself (70_reset_and_hazards.md R255). -/
def State.GoodEnd (s : State) : Prop :=
  s.halt = false ∧ ∃ nnn : BitVec 12, decode s.fetch = .ok (.jp nnn) ∧ nnn.setWidth 16 = s.pc

/-- `ERR` and `ERR_OPCODE` speak of one word that raises that error (60_exceptions.md R200). -/
def ErrorRecorded (e : ErrCode) (w : Word) : Prop :=
  match e with
  | .noError => w = 0x0000#16
  | .stackOverflow => ∃ nnn, decode w = .ok (.call nnn)
  | .stackUnderflow => w = 0x00EE#16
  | .unknownOpcode => ∀ i, decode w = .ok i → i.executable = false

/-- The invariants of 10_state.md R40 with the form of the memory list: `SP` within its range, `HALT` exactly when an
error is recorded, a key wait only with an `FX0A` at `PC` and never while halted, the recorded word of the kind that
raises the recorded error. -/
def State.Inv (s : State) : Prop :=
  s.sp.val ≤ 16 ∧
  (s.halt = true ↔ s.err ≠ .noError) ∧
  (s.wait = true → s.halt = false ∧ ∃ x, decode s.fetch = .ok (.ldVxK x)) ∧
  ErrorRecorded s.err s.errOpcode ∧
  Memory.wf s.params s.mem = true

/-- The invariant of the system: that of CORE once a `Reset()` has happened, and, as long as `Load` is a move, CORE in the
very state `Reset()` leaves (70_reset_and_hazards.md R242). -/
def System.Inv (sys : System) : Prop :=
  sys.phase ≠ .unbooted → sys.core.Inv ∧ (sys.phase = .fresh → sys.core = sys.core.doReset)

/-! ### Terms the claims use -/

/-- The table of 10_state.md R39: what `Reset()` leaves. Memory is given through the two OPEN
parameters, whatever their values. -/
def State.ResetValues (s : State) : Prop :=
  (∀ r, s.reg r = 0x00#8) ∧ s.i = 0x0000#16 ∧ s.pc = 0x0200#16 ∧ s.sp.val = 0 ∧ (∀ k : Fin 16, s.stack[k.val] = 0x0000#16) ∧
  s.dt = 0x00#8 ∧ s.st = 0x00#8 ∧ s.sound = false ∧ s.keys = 0x0000#16 ∧ (∀ x y, s.cell x y = false) ∧
  s.drawFlag = false ∧ s.wait = false ∧ s.keyPrev = 0x0000#16 ∧ s.halt = false ∧ s.err.code = 0 ∧
  s.errOpcode = 0x0000#16 ∧ (∀ a (h : a < 80), s.memRead a = s.params.font[a]) ∧
  (∀ a, 80 ≤ a → a < 4096 → s.memRead a = fillByte s.params.fill a)

/-- The illegal words, family by family (30_encoding.md R96). -/
def illegalWord (w : Word) : Bool :=
  let f := w.toNat / 4096
  let n := w.toNat % 16
  let nn := w.toNat % 256
  if f = 0 then w.toNat ≠ 0x00E0 && w.toNat ≠ 0x00EE
  else if f = 5 ∨ f = 9 then n ≠ 0
  else if f = 8 then n = 8 || n = 9 || n = 10 || n = 11 || n = 12 || n = 13 || n = 15
  else if f = 14 then nn ≠ 0x9E && nn ≠ 0xA1
  else if f = 15 then
    nn ≠ 0x07 && nn ≠ 0x0A && nn ≠ 0x15 && nn ≠ 0x18 && nn ≠ 0x1E && nn ≠ 0x29 && nn ≠ 0x33 && nn ≠ 0x55 && nn ≠ 0x65
  else false

/-- The instructions that only fall through: all but `00EE`, `0NNN`, `1NNN`, `2NNN`, `BNNN`, the six skips and `FX0A`
(95_test_vectors.md S1, 90_conflicts.md C6). -/
def sequential : Instr → Bool
  | .ret | .sys _ | .jp _ | .call _ | .jpV0 _ => false
  | .seImm _ _ | .sneImm _ _ | .seReg _ _ | .sneReg _ _ | .skp _ | .sknp _ => false
  | .ldVxK _ => false
  | .cls | .ldImm _ _ | .addImm _ _ | .ldReg _ _ | .orReg _ _ | .andReg _ _ | .xorReg _ _ | .addReg _ _ | .subReg _ _
  | .shr _ _ | .subnReg _ _ | .shl _ _ | .ldI _ | .rnd _ _ | .drw _ _ _ | .ldVxDT _ | .ldDTVx _ | .ldSTVx _ | .addI _
  | .ldF _ | .ldB _ | .storeRegs _ | .loadRegs _ => true

/-- Which general registers an instruction writes: `V[X]`, the flag register, or the range `V[0]` to `V[X]`
(10_state.md R21). -/
def writesReg : Instr → Reg → Bool
  | .ldImm x _, r | .addImm x _, r | .ldReg x _, r | .orReg x _, r | .andReg x _, r | .xorReg x _, r | .rnd x _, r
  | .ldVxDT x, r | .ldVxK x, r => r == x
  | .addReg x _, r | .subReg x _, r | .shr x _, r | .subnReg x _, r | .shl x _, r => r == x || r == vf
  | .drw _ _ _, r => r == vf
  | .loadRegs x, r => decide (r ≤ x)
  | .cls, _ | .ret, _ | .sys _, _ | .jp _, _ | .call _, _ | .seImm _ _, _ | .sneImm _ _, _ | .seReg _ _, _
  | .sneReg _ _, _ | .ldI _, _ | .jpV0 _, _ | .skp _, _ | .sknp _, _ | .ldDTVx _, _ | .ldSTVx _, _ | .addI _, _
  | .ldF _, _ | .ldB _, _ | .storeRegs _, _ => false

/-- The sprite that `DXYN` draws has a set bit over the cell of column `cx` and row `cy` (44_display.md R171): the start
cell wraps, the cells of the sprite do not; bit 7 of a byte is the start column. -/
def State.spriteCell (s : State) (x y : Reg) (n : BitVec 4) (cx cy : Nat) : Prop :=
  ∃ r c, r < n.toNat ∧ c < 8 ∧ cx = (s.reg x).toNat % 64 + c ∧ cy = (s.reg y).toNat % 32 + r ∧
    (s.memRead (s.i.toNat + r)).getLsbD (7 - c) = true

/-- Key `k` is down now and was up at the previous execution of `FX0A` (45_timer_key.md R181). -/
def State.freshPress (s : State) (k : Key) : Prop := s.keys.getLsbD k.val = true ∧ s.keyPrev.getLsbD k.val = false

/-- Two states that differ at most in the stack slots at `SP` and above (10_state.md R26). -/
def SameButDeadSlots (s s' : State) : Prop :=
  s' = { s with stack := s'.stack } ∧ ∀ k : Fin 16, k.val < s.sp.val → s.stack[k.val] = s'.stack[k.val]

/-- Two states that differ at most in what is for the host alone: `DRAW_FLAG`, `ST`, `HALT`, `ERR`, `ERR_OPCODE`
(10_state.md R27, R31, R33). -/
def SameToProgram (s s' : State) : Prop :=
  s' = { s with drawFlag := s'.drawFlag, st := s'.st, halt := s'.halt, err := s'.err, errOpcode := s'.errOpcode }

end Sys2Proof.Machine
end

