-- ==== Sys2Proof/Certificates/Slice0/Obligations.lean ====
section
/-! DEFINITION. The statements about CORE, each from numbered rules of spec/. Throughout, `t = { s with … := t.… }` says
that every field not named there is as in `s`: it is the frame. -/

open Sys2Proof Sys2Proof.Machine

/-! ### Reset, fetch and the step -/

/-- 10_state.md R39, 70_reset_and_hazards.md R240: the state after reset, from whatever state `Reset()` is applied in. The
values of the registers the spec added are its decision D21; memory is given by the OPEN parameters (00_scope.md R6), for
every value of theirs. That `draws` and `params` are kept is log entries 3 and 16. -/
def Obligations.ResetLeavesTheTableOfValues : Prop :=
  State.reset.ResetValues ∧ (∀ p : Params, (State.resetWith p).ResetValues ∧ (State.resetWith p).params = p) ∧
  ∀ s : State, s.doReset.ResetValues ∧ s.doReset.draws = s.draws ∧ s.doReset.params = s.params

/-- 10_state.md R40, first half: the invariant at reset. The clauses on `ERR_OPCODE` and on the memory list are the
model's own additions. -/
def Obligations.ResetMeetsTheInvariant : Prop := State.reset.Inv ∧ (∀ p : Params, (State.resetWith p).Inv) ∧ ∀ s : State, s.doReset.Inv

/-- 10_state.md R40 for `Step`: from every state that meets the invariant, in particular with `WAIT` set only over an `FX0A`
and a memory list in canonical form, a step gives one that meets it. -/
def Obligations.StepKeepsTheInvariant : Prop := ∀ s t : State, s.Inv → step s = .next t → t.Inv

/-- 10_state.md R40 for every operation of the environment in every admissible order (70_reset_and_hazards.md R242, R249),
from power-on on, and the run of any list of operations; and that as long as `Load` is a move CORE is in the state `Reset()`
leaves. -/
def Obligations.EveryOperationKeepsTheInvariant : Prop :=
  (∀ s : State, (System.powerOn s).Inv) ∧
  (∀ (sys sys' : System) (op : Op) (ans : Answer), sys.Inv → sys.apply op = some (sys', ans) → sys'.Inv) ∧
  (∀ (sys sys' : System) (ops : List Op), sys.Inv → sys.run ops = some sys' → sys'.Inv)

/-- 30_encoding.md R90: the step. Halted, it changes nothing; else it fetches the word at `PC`, high byte first, and runs the
instruction the word decodes to, or takes the error entry of an unknown opcode. -/
def Obligations.StepRunsTheFetchedInstruction : Prop :=
  ∀ s : State,
    (s.halt = true → step s = .next s) ∧
    (s.halt = false → ∀ i, decode (s.memRead s.pc.toNat ++ s.memRead (s.pc.toNat + 1)) = .ok i → step s = exec i s) ∧
    (s.halt = false → ∀ e, decode (s.memRead s.pc.toNat ++ s.memRead (s.pc.toNat + 1)) = .error e →
      step s = .next { s with halt := true, err := .unknownOpcode,
                              errOpcode := s.memRead s.pc.toNat ++ s.memRead (s.pc.toNat + 1) })

/-- 30_encoding.md R90, 60_exceptions.md R204: the status a `Step` answers, read off the state it leaves. -/
def Obligations.StepAnswersItsStatus : Prop :=
  ∀ (sys : System) (t : State), sys.phase ≠ .unbooted → step sys.core = .next t →
    sys.apply .step = some (⟨t, .running⟩, .status
      (if t.halt then .halted t.err.code t.errOpcode else if t.wait then .waitingForKey else .ok))

/-- 60_exceptions.md R204: a halted engine stays as it is under `Step` and reports its error again, while the timers, the
keypad, the display and the redraw flag work as usual (the spec's decision D7). -/
def Obligations.HaltedEngineIsStuckButHostOperationsWork : Prop :=
  ∀ (sys : System), sys.phase = .running → sys.core.halt = true →
    sys.apply .step = some (sys, .status (.halted sys.core.err.code sys.core.errOpcode)) ∧
    sys.apply .tick = some (⟨sys.core.tick, .running⟩, .done) ∧
    (∀ k b, sys.apply (.setKey k b) = some (⟨sys.core.setKey k b, .running⟩, .done)) ∧
    sys.apply .readDisplay = some (sys, .cells sys.core.readDisplay) ∧
    sys.apply .clearDrawFlag = some (⟨sys.core.clearDrawFlag, .running⟩, .done)

/-- 20_memory.md R71 with R63 and R64: a stored byte is seen by the next fetch wherever one of the two fetch addresses,
each taken modulo 4096 (the spec's decision D1), is the address stored to. -/
def Obligations.StoreIsSeenByTheNextFetch : Prop :=
  ∀ (s : State) (a : Nat) (b : Byte),
    (s.memWrite a b).fetch =
      (if a % 4096 = s.pc.toNat % 4096 then b else s.memRead s.pc.toNat) ++
      (if a % 4096 = (s.pc.toNat + 1) % 4096 then b else s.memRead (s.pc.toNat + 1))

/-- A word placed where the step fetches is the word it runs, at any `PC`, odd or at the top of memory (20_memory.md R64,
R65). The placing stands for `Load`: log entry 7. -/
def Obligations.PlacedWordIsTheOneTheStepRuns : Prop :=
  ∀ (s : State) (w : Nat), w < 65536 →
    (s.withFetchWord 16 w).fetch = BitVec.ofNat 16 w ∧
    ∀ i, decodeTableWord 16 w = some i → step (s.withFetchWord 16 w) = exec i (s.withFetchWord 16 w)

/-! ### Decoding and encoding -/

/-- Words written out from the table of 30_encoding.md R95 and the vectors of 95_test_vectors.md decode to what they
stand for. -/
def Obligations.WordsOfTheSpecDecode : Prop :=
  decode 0x00E0#16 = .ok .cls ∧ decode 0x00EE#16 = .ok .ret ∧ decode 0x0123#16 = .ok (.sys 0x123#12) ∧
  decode 0x2ABC#16 = .ok (.call 0xABC#12) ∧ decode 0x4311#16 = .ok (.sneImm 3 0x11#8) ∧
  decode 0x5120#16 = .ok (.seReg 1 2) ∧ decode 0x5121#16 = .error (.unknownOpcode 0x5121#16) ∧
  decode 0x8F16#16 = .ok (.shr 15 1) ∧ decode 0x8018#16 = .error (.unknownOpcode 0x8018#16) ∧
  decode 0xC00F#16 = .ok (.rnd 0 0x0F#8) ∧ decode 0xD01F#16 = .ok (.drw 0 1 0xF#4) ∧
  decode 0xE09E#16 = .ok (.skp 0) ∧ decode 0xF30A#16 = .ok (.ldVxK 3) ∧ decode 0xF265#16 = .ok (.loadRegs 2) ∧
  decode 0xF0FF#16 = .error (.unknownOpcode 0xF0FF#16)

/-- Decoding the encoding of a well-formed instruction gives it back, whatever its operands (30_encoding.md R91, R102). -/
def Obligations.DecodeOfEncodeIsIdentity : Prop := ∀ i : Instr, i.wellFormed = true → decode (encode i) = .ok i

/-- What a word decodes to is well formed and encodes to that word: no bit is lost, the ignored field of the shifts
included (30_encoding.md R94, R99). -/
def Obligations.EncodeOfDecodeIsIdentity : Prop :=
  ∀ (w : Word) (i : Instr), decode w = .ok i → i.wellFormed = true ∧ encode i = w

/-- 30_encoding.md R102: the word is the row's `match` or-ed with each field shifted to its place; its bytes are the high
one, then the low one. -/
def Obligations.EncodingIsMatchOrFields : Prop :=
  ∀ i : Instr, encode i = i.rowMatch ||| i.operandBits ∧
    encodeBytes i = [(encode i).extractLsb' 8 8, (encode i).extractLsb' 0 8]

/-- 30_encoding.md R96, R97: a word decodes to an executable instruction exactly when it is none of the illegal words; a word
outside the opcode map is rejected under its own value. -/
def Obligations.IllegalWordsAreExactlyTheTable : Prop :=
  ∀ w : Word, (illegalWord w = false ↔ ∃ i, decode w = .ok i ∧ i.executable = true) ∧
    ∀ e, decode w = .error e → e = .unknownOpcode w

/-- 30_encoding.md R96, R98: executing an illegal word, 0x0000 and every other `0NNN` included, halts the engine with
`UnknownOpcode` and that word, and changes nothing else. -/
def Obligations.IllegalWordRaisesUnknownOpcode : Prop :=
  ∀ s : State, s.halt = false → illegalWord s.fetch = true →
    step s = .next { s with halt := true, err := .unknownOpcode, errOpcode := s.fetch }

/-! ### Control transfer (40_flow.md) -/

/-- 40_flow.md R120: completion with one entry or more, the error entry (60_exceptions.md R202) with none. That the popped
slot is kept is the spec's decision D5 (10_state.md R26). -/
def Obligations.RetPopsOrUnderflows : Prop :=
  decode 0x00EE#16 = .ok .ret ∧
  ∀ s : State,
    (s.sp.val = 0 → exec .ret s = .next { s with halt := true, err := .stackUnderflow, errOpcode := 0x00EE#16 }) ∧
    (0 < s.sp.val → ∃ t, exec .ret s = .next t ∧ t = { s with sp := t.sp, pc := t.pc } ∧
      t.sp.val + 1 = s.sp.val ∧ s.stack[s.sp.val - 1]? = some t.pc)

/-- 40_flow.md R121: for every word of family 0 that is neither 0x00E0 nor 0x00EE. -/
def Obligations.SysAlwaysRaisesUnknownOpcode : Prop :=
  ∀ nnn : BitVec 12, nnn ≠ 0x0E0#12 → nnn ≠ 0x0EE#12 →
    decode (0x0#4 ++ nnn) = .ok (.sys nnn) ∧
    ∀ s : State, exec (.sys nnn) s = .next { s with halt := true, err := .unknownOpcode, errOpcode := 0x0#4 ++ nnn }

/-- 40_flow.md R122. -/
def Obligations.JumpSetsPcToTarget : Prop :=
  ∀ nnn : BitVec 12, decode (0x1#4 ++ nnn) = .ok (.jp nnn) ∧
    ∀ s : State, ∃ t, exec (.jp nnn) s = .next t ∧ t = { s with pc := t.pc } ∧ t.pc.toNat = nnn.toNat

/-- 40_flow.md R123; what an overflow leaves is the spec's decision D6. -/
def Obligations.CallPushesNextAddressOrOverflows : Prop :=
  ∀ nnn : BitVec 12, decode (0x2#4 ++ nnn) = .ok (.call nnn) ∧
    ∀ s : State,
      (s.sp.val = 16 →
        exec (.call nnn) s = .next { s with halt := true, err := .stackOverflow, errOpcode := 0x2#4 ++ nnn }) ∧
      (s.sp.val < 16 → ∃ t, exec (.call nnn) s = .next t ∧ t = { s with stack := t.stack, sp := t.sp, pc := t.pc } ∧
        t.sp.val = s.sp.val + 1 ∧ t.pc.toNat = nnn.toNat ∧
        ∀ k : Fin 16, t.stack[k.val] = if k.val = s.sp.val then s.pc + 2#16 else s.stack[k.val])

/-- 40_flow.md R124: always `V0`, and no overflow of 16 bits. -/
def Obligations.JumpWithOffsetAddsV0 : Prop :=
  ∀ nnn : BitVec 12, decode (0xB#4 ++ nnn) = .ok (.jpV0 nnn) ∧
    ∀ s : State, ∃ t, exec (.jpV0 nnn) s = .next t ∧ t = { s with pc := t.pc } ∧
      t.pc.toNat = nnn.toNat + (s.reg 0).toNat

/-- 95_test_vectors.md S3 (40_flow.md R120, R123): a call followed by a return comes back to the instruction after the
call, with the stack as deep as before and nothing else changed but the slot used. -/
def Obligations.ReturnUndoesCall : Prop :=
  ∀ (s : State) (nnn : BitVec 12), s.sp.val < 16 →
    ∃ t u, exec (.call nnn) s = .next t ∧ exec .ret t = .next u ∧
      u = { s with stack := u.stack, pc := s.pc + 2#16 } ∧
      ∀ k : Fin 16, k.val ≠ s.sp.val → u.stack[k.val] = s.stack[k.val]

/-! ### Skips (41_skip.md) -/

/-- 41_skip.md R130, R131. -/
def Obligations.SkipOnImmediateComparison : Prop :=
  ∀ (x : Reg) (nn : Byte),
    decode (0x3#4 ++ regBits x ++ nn) = .ok (.seImm x nn) ∧ decode (0x4#4 ++ regBits x ++ nn) = .ok (.sneImm x nn) ∧
    ∀ s : State,
      exec (.seImm x nn) s = .next { s with pc := if s.reg x = nn then s.pc + 4#16 else s.pc + 2#16 } ∧
      exec (.sneImm x nn) s = .next { s with pc := if s.reg x = nn then s.pc + 2#16 else s.pc + 4#16 }

/-- 41_skip.md R132, R133, with the low nibble of the two families checked (30_encoding.md R97; the spec's decision D29): with
`N ≠ 0` a step raises `UnknownOpcode`. -/
def Obligations.SkipOnRegisterComparison : Prop :=
  ∀ (x y : Reg),
    decode (0x5#4 ++ regBits x ++ regBits y ++ 0x0#4) = .ok (.seReg x y) ∧
    decode (0x9#4 ++ regBits x ++ regBits y ++ 0x0#4) = .ok (.sneReg x y) ∧
    (∀ (n : BitVec 4) (s : State), n ≠ 0x0#4 → s.halt = false →
      s.fetch = 0x5#4 ++ regBits x ++ regBits y ++ n ∨ s.fetch = 0x9#4 ++ regBits x ++ regBits y ++ n →
      step s = .next { s with halt := true, err := .unknownOpcode, errOpcode := s.fetch }) ∧
    ∀ s : State,
      exec (.seReg x y) s = .next { s with pc := if s.reg x = s.reg y then s.pc + 4#16 else s.pc + 2#16 } ∧
      exec (.sneReg x y) s = .next { s with pc := if s.reg x = s.reg y then s.pc + 2#16 else s.pc + 4#16 }

/-- 41_skip.md R134, R135. That the low nibble of `V[X]` selects the key is the spec's decision D13. -/
def Obligations.SkipOnKeyState : Prop :=
  ∀ (x : Reg),
    decode (0xE#4 ++ regBits x ++ 0x9E#8) = .ok (.skp x) ∧ decode (0xE#4 ++ regBits x ++ 0xA1#8) = .ok (.sknp x) ∧
    ∀ s : State,
      exec (.skp x) s =
        .next { s with pc := if s.keys.getLsbD ((s.reg x).toNat % 16) then s.pc + 4#16 else s.pc + 2#16 } ∧
      exec (.sknp x) s =
        .next { s with pc := if s.keys.getLsbD ((s.reg x).toNat % 16) then s.pc + 2#16 else s.pc + 4#16 }

/-! ### Loads, arithmetic, logic, shifts, random (42_alu.md) -/

/-- 42_alu.md R140, R142. -/
def Obligations.LoadRegisterFromImmediateOrRegister : Prop :=
  ∀ (x y : Reg) (nn : Byte),
    decode (0x6#4 ++ regBits x ++ nn) = .ok (.ldImm x nn) ∧
    decode (0x8#4 ++ regBits x ++ regBits y ++ 0x0#4) = .ok (.ldReg x y) ∧
    ∀ s : State,
      (∃ t, exec (.ldImm x nn) s = .next t ∧ t = { s with v := t.v, pc := s.pc + 2#16 } ∧
        ∀ r, t.reg r = if r = x then nn else s.reg r) ∧
      (∃ t, exec (.ldReg x y) s = .next t ∧ t = { s with v := t.v, pc := s.pc + 2#16 } ∧
        ∀ r, t.reg r = if r = x then s.reg y else s.reg r)

/-- 42_alu.md R141: no flag. -/
def Obligations.AddImmediateWrapsWithoutFlag : Prop :=
  ∀ (x : Reg) (nn : Byte), decode (0x7#4 ++ regBits x ++ nn) = .ok (.addImm x nn) ∧
    ∀ s : State, ∃ t, exec (.addImm x nn) s = .next t ∧ t = { s with v := t.v, pc := s.pc + 2#16 } ∧
      ∀ r, (t.reg r).toNat = if r = x then ((s.reg x).toNat + nn.toNat) % 256 else (s.reg r).toNat

/-- 42_alu.md R143, R144, R145: bit by bit, and `VF` is not written. -/
def Obligations.LogicLeavesTheFlagAlone : Prop :=
  ∀ (x y : Reg),
    decode (0x8#4 ++ regBits x ++ regBits y ++ 0x1#4) = .ok (.orReg x y) ∧
    decode (0x8#4 ++ regBits x ++ regBits y ++ 0x2#4) = .ok (.andReg x y) ∧
    decode (0x8#4 ++ regBits x ++ regBits y ++ 0x3#4) = .ok (.xorReg x y) ∧
    ∀ s : State,
      (∃ t, exec (.orReg x y) s = .next t ∧ t = { s with v := t.v, pc := s.pc + 2#16 } ∧
        ∀ r k, (t.reg r).getLsbD k =
          if r = x then (s.reg x).getLsbD k || (s.reg y).getLsbD k else (s.reg r).getLsbD k) ∧
      (∃ t, exec (.andReg x y) s = .next t ∧ t = { s with v := t.v, pc := s.pc + 2#16 } ∧
        ∀ r k, (t.reg r).getLsbD k =
          if r = x then (s.reg x).getLsbD k && (s.reg y).getLsbD k else (s.reg r).getLsbD k) ∧
      (∃ t, exec (.xorReg x y) s = .next t ∧ t = { s with v := t.v, pc := s.pc + 2#16 } ∧
        ∀ r k, (t.reg r).getLsbD k =
          if r = x then (s.reg x).getLsbD k ^^ (s.reg y).getLsbD k else (s.reg r).getLsbD k)

/-- 42_alu.md R146: both operands are the old ones, the carry is written last; that with `X = 15` the flag survives is the
spec's decision D4. -/
def Obligations.AddWritesSumThenCarry : Prop :=
  ∀ (x y : Reg), decode (0x8#4 ++ regBits x ++ regBits y ++ 0x4#4) = .ok (.addReg x y) ∧
    ∀ s : State, ∃ t, exec (.addReg x y) s = .next t ∧ t = { s with v := t.v, pc := s.pc + 2#16 } ∧
      ∀ r, (t.reg r).toNat =
        if r = 15 then (if (s.reg x).toNat + (s.reg y).toNat > 255 then 1 else 0)
        else if r = x then ((s.reg x).toNat + (s.reg y).toNat) % 256 else (s.reg r).toNat

/-- 42_alu.md R147: the difference modulo 256, the no-borrow flag written last (the spec's decision D4). -/
def Obligations.SubWritesDifferenceThenNoBorrow : Prop :=
  ∀ (x y : Reg), decode (0x8#4 ++ regBits x ++ regBits y ++ 0x5#4) = .ok (.subReg x y) ∧
    ∀ s : State, ∃ t, exec (.subReg x y) s = .next t ∧ t = { s with v := t.v, pc := s.pc + 2#16 } ∧
      ∀ r, ((t.reg r).toNat : Int) =
        if r = 15 then (if (s.reg x).toNat ≥ (s.reg y).toNat then 1 else 0)
        else if r = x then (((s.reg x).toNat : Int) - ((s.reg y).toNat : Int)) % 256 else ((s.reg r).toNat : Int)

/-- 42_alu.md R149: the reverse difference modulo 256, the no-borrow flag written last (the spec's decision D4). -/
def Obligations.SubnWritesReverseDifferenceThenNoBorrow : Prop :=
  ∀ (x y : Reg), decode (0x8#4 ++ regBits x ++ regBits y ++ 0x7#4) = .ok (.subnReg x y) ∧
    ∀ s : State, ∃ t, exec (.subnReg x y) s = .next t ∧ t = { s with v := t.v, pc := s.pc + 2#16 } ∧
      ∀ r, ((t.reg r).toNat : Int) =
        if r = 15 then (if (s.reg y).toNat ≥ (s.reg x).toNat then 1 else 0)
        else if r = x then (((s.reg y).toNat : Int) - ((s.reg x).toNat : Int)) % 256 else ((s.reg r).toNat : Int)

/-- 42_alu.md R148, for every value of the ignored field `Y`. That with `X = 15` the shifted value survives is the spec's
decision D4. -/
def Obligations.ShiftRightWritesFlagThenHalf : Prop :=
  ∀ (x y : Reg), decode (0x8#4 ++ regBits x ++ regBits y ++ 0x6#4) = .ok (.shr x y) ∧
    ∀ s : State, ∃ t, exec (.shr x y) s = .next t ∧ t = { s with v := t.v, pc := s.pc + 2#16 } ∧
      ∀ r, (t.reg r).toNat =
        if r = x then (s.reg x).toNat / 2 else if r = 15 then (s.reg x).toNat % 2 else (s.reg r).toNat

/-- 42_alu.md R150, for every value of the ignored field `Y`. That with `X = 15` the shifted value survives is the spec's
decision D4. -/
def Obligations.ShiftLeftWritesFlagThenDouble : Prop :=
  ∀ (x y : Reg), decode (0x8#4 ++ regBits x ++ regBits y ++ 0xE#4) = .ok (.shl x y) ∧
    ∀ s : State, ∃ t, exec (.shl x y) s = .next t ∧ t = { s with v := t.v, pc := s.pc + 2#16 } ∧
      ∀ r, (t.reg r).toNat =
        if r = x then (s.reg x).toNat * 2 % 256 else if r = 15 then (s.reg x).toNat / 128 else (s.reg r).toNat

/-- 42_alu.md R151: some byte `rnd`, the next of the stream that stands for the input (log entry 3), masked with `NN`; a bit
that is 0 in `NN` is 0 in the result. -/
def Obligations.RandomByteIsMasked : Prop :=
  ∀ (x : Reg) (nn : Byte), decode (0xC#4 ++ regBits x ++ nn) = .ok (.rnd x nn) ∧
    ∀ s : State, ∃ t, exec (.rnd x nn) s = .next t ∧
      t = { s with v := t.v, pc := s.pc + 2#16, draws := s.draws + 1 } ∧
      (∀ r, t.reg r = if r = x then Config.randomByte s.draws &&& nn else s.reg r) ∧
      ∀ k, nn.getLsbD k = false → (t.reg x).getLsbD k = false

/-! ### Index register and memory (43_index_memory.md) -/

/-- 43_index_memory.md R160. -/
def Obligations.LoadIndexZeroExtends : Prop :=
  ∀ nnn : BitVec 12, decode (0xA#4 ++ nnn) = .ok (.ldI nnn) ∧
    ∀ s : State, ∃ t, exec (.ldI nnn) s = .next t ∧ t = { s with i := t.i, pc := s.pc + 2#16 } ∧
      t.i.toNat = nnn.toNat

/-- 43_index_memory.md R161: 16-bit wrap, no flag; that `I` is not cut to 12 bits is the spec's decision D2. -/
def Obligations.AddToIndexWrapsAtSixteenBits : Prop :=
  ∀ x : Reg, decode (0xF#4 ++ regBits x ++ 0x1E#8) = .ok (.addI x) ∧
    ∀ s : State, ∃ t, exec (.addI x) s = .next t ∧ t = { s with i := t.i, pc := s.pc + 2#16 } ∧
      t.i.toNat = (s.i.toNat + (s.reg x).toNat) % 65536

/-- 43_index_memory.md R162: all 8 bits of `V[X]` (the spec's decision D23), memory not accessed. -/
def Obligations.GlyphAddressIsFiveTimesRegister : Prop :=
  ∀ x : Reg, decode (0xF#4 ++ regBits x ++ 0x29#8) = .ok (.ldF x) ∧
    ∀ s : State, ∃ t, exec (.ldF x) s = .next t ∧ t = { s with i := t.i, pc := s.pc + 2#16 } ∧
      t.i.toNat = (s.reg x).toNat * 5

/-- 43_index_memory.md R163: three digits at `I`, `I + 1`, `I + 2`, each address modulo 4096 by itself (the spec's
decision D1), and no other byte; `I` is kept. -/
def Obligations.DecimalDigitsAreStored : Prop :=
  ∀ x : Reg, decode (0xF#4 ++ regBits x ++ 0x33#8) = .ok (.ldB x) ∧
    ∀ s : State, ∃ t, exec (.ldB x) s = .next t ∧ t = { s with mem := t.mem, pc := s.pc + 2#16 } ∧
      (t.memRead (s.indexed 0)).toNat = (s.reg x).toNat / 100 ∧
      (t.memRead (s.indexed 1)).toNat = (s.reg x).toNat / 10 % 10 ∧
      (t.memRead (s.indexed 2)).toNat = (s.reg x).toNat % 10 ∧
      ∀ a, (∀ k, k < 3 → a % 4096 ≠ s.indexed k % 4096) → t.memRead a = s.memRead a

/-- 43_index_memory.md R164: `V[0]` to `V[X]` at `I` on, each address modulo 4096 by itself, and no other byte; `I` advances
by `X + 1`, wrapping at 16 bits (the two moduli are the spec's decisions D1 and D2). -/
def Obligations.StoreRegistersWritesExactlyItsBytes : Prop :=
  ∀ x : Reg, decode (0xF#4 ++ regBits x ++ 0x55#8) = .ok (.storeRegs x) ∧
    ∀ s : State, ∃ t, exec (.storeRegs x) s = .next t ∧ t = { s with mem := t.mem, i := t.i, pc := s.pc + 2#16 } ∧
      t.i.toNat = (s.i.toNat + x.val + 1) % 65536 ∧
      (∀ r : Reg, r ≤ x → t.memRead (s.indexed r.val) = s.reg r) ∧
      ∀ a, (∀ r : Reg, r ≤ x → a % 4096 ≠ s.indexed r.val % 4096) → t.memRead a = s.memRead a

/-- 43_index_memory.md R165: `V[0]` to `V[X]` from `I` on, the other registers and memory kept; `I` advances by `X + 1`
(the two moduli are the spec's decisions D1 and D2). -/
def Obligations.LoadRegistersReadsItsBytes : Prop :=
  ∀ x : Reg, decode (0xF#4 ++ regBits x ++ 0x65#8) = .ok (.loadRegs x) ∧
    ∀ s : State, ∃ t, exec (.loadRegs x) s = .next t ∧ t = { s with v := t.v, i := t.i, pc := s.pc + 2#16 } ∧
      t.i.toNat = (s.i.toNat + x.val + 1) % 65536 ∧
      ∀ r : Reg, t.reg r = if r ≤ x then s.memRead (s.indexed r.val) else s.reg r

/-- Storing registers and loading them back from the same place gives them back, whatever else changed in between but
what memory reads as (43_index_memory.md R164, R165; 20_memory.md R66). -/
def Obligations.LoadAfterStoreGivesRegistersBack : Prop :=
  ∀ (s : State) (x : Reg), ∃ t, exec (.storeRegs x) s = .next t ∧
    ∀ w : State, (∀ a, w.memRead a = t.memRead a) → w.i = s.i →
      ∃ u, exec (.loadRegs x) w = .next u ∧ ∀ r : Reg, r ≤ x → u.reg r = s.reg r

/-! ### Display (44_display.md) -/

/-- 44_display.md R170. That `DRAW_FLAG` is set on a blank display too is the spec's decision D12. -/
def Obligations.ClearTurnsEveryCellOff : Prop :=
  decode 0x00E0#16 = .ok .cls ∧
  ∀ s : State, ∃ t, exec .cls s = .next t ∧ t = { s with disp := t.disp, drawFlag := true, pc := s.pc + 2#16 } ∧
    ∀ x y, t.cell x y = false

/-- 44_display.md R171, cell by cell: each cell under a set bit of the sprite flips, every other cell is kept; `VF` is 1 when
a cell that was on flipped, else 0. The bit order, `VF = 0` and the flag on every draw are the spec's decisions D11, D10,
D12 (log entry 4 for the first). -/
def Obligations.DrawFlipsTheSpriteCells : Prop :=
  ∀ (x y : Reg) (n : BitVec 4), decode (0xD#4 ++ regBits x ++ regBits y ++ n) = .ok (.drw x y n) ∧
    ∀ s : State, ∃ t, exec (.drw x y n) s = .next t ∧
      t = { s with v := t.v, disp := t.disp, drawFlag := true, pc := s.pc + 2#16 } ∧
      (∀ cx cy, cx < 64 → cy < 32 → (t.cell cx cy ≠ s.cell cx cy ↔ s.spriteCell x y n cx cy)) ∧
      (∀ r, r ≠ 15 → t.reg r = s.reg r) ∧
      ((∃ cx cy, cx < 64 ∧ cy < 32 ∧ s.spriteCell x y n cx cy ∧ s.cell cx cy = true) → t.reg 15 = 1#8) ∧
      ((¬ ∃ cx cy, cx < 64 ∧ cy < 32 ∧ s.spriteCell x y n cx cy ∧ s.cell cx cy = true) → t.reg 15 = 0#8)

/-- 95_test_vectors.md S6 (44_display.md R171): the same sprite drawn twice at the same place restores the display, and the
second draw reports a collision exactly when the first turned some cell on. Neither coordinate register is `VF`, which the
first draw overwrites. The `VF = 0` of a draw without collision is the spec's decision D10. -/
def Obligations.DrawingTwiceRestoresTheDisplay : Prop :=
  ∀ (s : State) (x y : Reg) (n : BitVec 4), x ≠ 15 → y ≠ 15 →
    ∃ t u, exec (.drw x y n) s = .next t ∧ exec (.drw x y n) t = .next u ∧
      (∀ cx cy, cx < 64 → cy < 32 → u.cell cx cy = s.cell cx cy) ∧
      (u.reg 15 = 1#8 ↔ ∃ cx cy, cx < 64 ∧ cy < 32 ∧ s.cell cx cy = false ∧ t.cell cx cy = true)

/-- 44_display.md R172, 60_exceptions.md R214: 2048 cells, row by row (the spec's decision D18); reading changes nothing
of CORE; clearing the redraw flag changes it alone. The phase after either is the model's (log entry 6). -/
def Obligations.HostReadsTheDisplayRowByRow : Prop :=
  ∀ sys : System, sys.phase ≠ .unbooted →
    (∃ cells, sys.apply .readDisplay = some (⟨sys.core, .running⟩, .cells cells) ∧ cells.length = 2048 ∧
      ∀ x y, x < 64 → y < 32 → cells[y * 64 + x]? = some (sys.core.cell x y)) ∧
    sys.apply .clearDrawFlag = some (⟨{ sys.core with drawFlag := false }, .running⟩, .done)

/-! ### Timers and keys (45_timer_key.md) -/

/-- 45_timer_key.md R180, R182, R183, with the output of 10_state.md R28. Which word moves which timer is the spec's decision
D15 (log entry 5). -/
def Obligations.TimerRegistersAreMoved : Prop :=
  ∀ x : Reg,
    decode (0xF#4 ++ regBits x ++ 0x07#8) = .ok (.ldVxDT x) ∧ decode (0xF#4 ++ regBits x ++ 0x15#8) = .ok (.ldDTVx x) ∧
    decode (0xF#4 ++ regBits x ++ 0x18#8) = .ok (.ldSTVx x) ∧
    ∀ s : State,
      (∃ t, exec (.ldVxDT x) s = .next t ∧ t = { s with v := t.v, pc := s.pc + 2#16 } ∧
        ∀ r, t.reg r = if r = x then s.dt else s.reg r) ∧
      exec (.ldDTVx x) s = .next { s with dt := s.reg x, pc := s.pc + 2#16 } ∧
      (∃ t, exec (.ldSTVx x) s = .next t ∧ t = { s with st := s.reg x, pc := s.pc + 2#16 } ∧
        (t.sound = true ↔ s.reg x ≠ 0x00#8))

/-- 45_timer_key.md R181. The registers `WAIT` and `KEY_PREV`, the two samples and the lowest key are the spec's decision
D14. -/
def Obligations.KeyWaitNeedsAFreshPress : Prop :=
  ∀ x : Reg, decode (0xF#4 ++ regBits x ++ 0x0A#8) = .ok (.ldVxK x) ∧
    ∀ s : State,
      ((s.wait = false ∨ ∀ k, ¬ s.freshPress k) →
        exec (.ldVxK x) s = .next { s with wait := true, keyPrev := s.keys }) ∧
      (∀ k, s.wait = true → s.freshPress k → (∀ j, j < k → ¬ s.freshPress j) →
        ∃ t, exec (.ldVxK x) s = .next t ∧
          t = { s with v := t.v, wait := false, keyPrev := s.keys, pc := s.pc + 2#16 } ∧
          ∀ r, (t.reg r).toNat = if r = x then k.val else (s.reg r).toNat)

/-- 70_reset_and_hazards.md R250: a wait begun with key `k` up ends at the step after `SetKey(k, 1)`, with that key; the steps
are those of the engine, the key the only one to change. -/
def Obligations.KeyPressEndsTheWait : Prop :=
  ∀ (s : State) (x : Reg) (k : Key), s.halt = false → decode s.fetch = .ok (.ldVxK x) → s.wait = false →
    s.keys.getLsbD k.val = false →
    ∃ t u, step s = .next t ∧ stepStatus t = .waitingForKey ∧ t.pc = s.pc ∧
      step (t.setKey k true) = .next u ∧ stepStatus u = .ok ∧ u.pc = s.pc + 2#16 ∧ (u.reg x).toNat = k.val

/-- 45_timer_key.md R181 (b), (e): while no key changes, a wait goes on for ever; a key held since before it began does not
end it. -/
def Obligations.WaitGoesOnWhileKeysAreUnchanged : Prop :=
  ∀ (s t : State) (x : Reg), s.halt = false → decode s.fetch = .ok (.ldVxK x) → s.wait = false → step s = .next t →
    stepStatus t = .waitingForKey ∧ step t = .next t

/-! ### Host operations (60_exceptions.md, 70_reset_and_hazards.md) -/

/-- 60_exceptions.md R210: one tick. The phase after it is the model's (log entry 6). -/
def Obligations.TickDecrementsBothTimers : Prop :=
  ∀ sys : System, sys.phase ≠ .unbooted →
    ∃ t, sys.apply .tick = some (⟨t, .running⟩, .done) ∧
      t = { sys.core with dt := t.dt, st := t.st } ∧
      t.dt.toNat = (if sys.core.dt.toNat > 0 then sys.core.dt.toNat - 1 else 0) ∧
      t.st.toNat = (if sys.core.st.toNat > 0 then sys.core.st.toNat - 1 else 0) ∧
      (t.sound = true ↔ sys.core.st.toNat > 1)

/-- 60_exceptions.md R211: `n` ticks. That a ticker call of `n` whole intervals is `n` ticks is the spec's decision D16. -/
def Obligations.TicksFloorAtZero : Prop :=
  ∀ (s : State) (n : Nat), s.ticks n = { s with dt := (s.ticks n).dt, st := (s.ticks n).st } ∧
    (s.ticks n).dt.toNat = s.dt.toNat - n ∧ (s.ticks n).st.toNat = s.st.toNat - n

/-- 60_exceptions.md R213. The phase after it is the model's (log entry 6). -/
def Obligations.SetKeyChangesOneKey : Prop :=
  ∀ (sys : System) (k : Key) (b : Bool), sys.phase ≠ .unbooted →
    ∃ t, sys.apply (.setKey k b) = some (⟨t, .running⟩, .done) ∧ t = { sys.core with keys := t.keys } ∧
      ∀ j : Key, t.keys.getLsbD j.val = if j = k then b else sys.core.keys.getLsbD j.val

/-- 70_reset_and_hazards.md R241: at most 3584 bytes are copied to 0x200 on; a larger image changes nothing. -/
def Obligations.LoadCopiesTheImageOrRefuses : Prop :=
  ∀ (s : State) (bytes : List Byte),
    (bytes.length > 3584 →
      (⟨s, .fresh⟩ : System).apply (.load bytes) = some (⟨s, .fresh⟩, .romTooLarge)) ∧
    (bytes.length ≤ 3584 →
      ∃ t, (⟨s, .fresh⟩ : System).apply (.load bytes) = some (⟨t, .running⟩, .done) ∧ t = { s with mem := t.mem } ∧
        (∀ k, k < bytes.length → bytes[k]? = some (t.memRead (0x200 + k))) ∧
        ∀ a, a < 4096 → (a < 0x200 ∨ 0x200 + bytes.length ≤ a) → t.memRead a = s.memRead a)

/-- 70_reset_and_hazards.md R242, R240: before the first `Reset()` there is no other move; `Reset()` is always one; once
any operation but `Reset()` and a failed `Load` has been applied, no list of operations without a `Reset()` leads to where
`Load` is one. The order is the spec's decision D22, the phases are the model's (log entry 6). -/
def Obligations.BootOrderIsEnforced : Prop :=
  (∀ (s : State) (op : Op), op ≠ .reset → (System.powerOn s).apply op = none) ∧
  (∀ sys : System, sys.apply .reset = some (⟨{ State.resetWith sys.core.params with draws := sys.core.draws }, .fresh⟩, .done)) ∧
  (∀ (sys sys' sys'' : System) (op : Op) (ans : Answer) (ops : List Op), op ≠ .reset → ans ≠ .romTooLarge →
    sys.apply op = some (sys', ans) → (∀ o ∈ ops, o ≠ .reset) → sys'.run ops = some sys'' →
    sys''.phase = .running ∧ ∀ bytes, sys''.apply (.load bytes) = none)

/-! ### The whole machine -/

/-- 60_exceptions.md R208, R206: every state has a next one. That a step raising an error (30_encoding.md R90,
60_exceptions.md R202) and a step of a halted engine (R204) answer a next state, and not a fault of the model, is the
model's choice (log entry 8): the spec gives both a state, and calls a halted run a fault (R255). -/
def Obligations.EveryStepHasANextState : Prop := ∀ s : State, ∃ t, step s = .next t

/-- 60_exceptions.md R200, R202, R206: a running engine halts in a step exactly when the fetched word is 0x00EE with an empty
stack, of family 2 with 16 entries, or illegal; each gives its own code; and then nothing else changes, `PC` included
(for the overflow the spec's decision D6; the codes are its decision D9). -/
def Obligations.StepHaltsExactlyOnTheThreeErrors : Prop :=
  ∀ s : State, s.halt = false → ∃ t, step s = .next t ∧
    (t.halt = true ↔
      (s.fetch = 0x00EE#16 ∧ s.sp.val = 0) ∨ (s.fetch.toNat / 4096 = 2 ∧ s.sp.val = 16) ∨ illegalWord s.fetch = true) ∧
    (t.halt = true → ∃ e, t = { s with halt := true, err := e, errOpcode := s.fetch } ∧
      (e.code = 2 ↔ s.fetch = 0x00EE#16) ∧ (e.code = 1 ↔ s.fetch.toNat / 4096 = 2) ∧
      (e.code = 3 ↔ illegalWord s.fetch = true)) ∧
    (t.halt = false → t.err = s.err ∧ t.errOpcode = s.errOpcode)

/-- 95_test_vectors.md S1 (10_state.md R25): every instruction that is no control transfer, skip or key wait moves `PC` by
exactly 2, raises nothing and leaves the wait flag alone. -/
def Obligations.OtherInstructionsAdvanceByTwo : Prop :=
  ∀ (i : Instr) (s : State), sequential i = true →
    ∃ t, exec i s = .next t ∧ t.pc = s.pc + 2#16 ∧ t.halt = s.halt ∧ t.err = s.err ∧ t.errOpcode = s.errOpcode ∧
      t.wait = s.wait ∧ t.keyPrev = s.keyPrev

/-- 10_state.md R38, the writers: which instructions may change each piece of state. No instruction changes `KEYS` or the
parameters of CORE. -/
def Obligations.OnlyTheListedInstructionsWriteEachState : Prop :=
  ∀ (i : Instr) (s t : State), exec i s = .next t →
    t.keys = s.keys ∧ t.params = s.params ∧
    (∀ r, t.reg r ≠ s.reg r → writesReg i r = true) ∧
    (t.i ≠ s.i → (∃ n, i = .ldI n) ∨ ∃ x, i = .addI x ∨ i = .ldF x ∨ i = .storeRegs x ∨ i = .loadRegs x) ∧
    (t.sp ≠ s.sp → i = .ret ∨ ∃ n, i = .call n) ∧
    (t.stack ≠ s.stack → ∃ n, i = .call n) ∧
    (t.dt ≠ s.dt → ∃ x, i = .ldDTVx x) ∧
    (t.st ≠ s.st → ∃ x, i = .ldSTVx x) ∧
    (t.disp ≠ s.disp ∨ t.drawFlag ≠ s.drawFlag → i = .cls ∨ ∃ x y n, i = .drw x y n) ∧
    (t.wait ≠ s.wait ∨ t.keyPrev ≠ s.keyPrev → ∃ x, i = .ldVxK x) ∧
    (t.halt ≠ s.halt ∨ t.err ≠ s.err ∨ t.errOpcode ≠ s.errOpcode → i = .ret ∨ ∃ n, i = .sys n ∨ i = .call n) ∧
    (t.mem ≠ s.mem → ∃ x, i = .ldB x ∨ i = .storeRegs x) ∧
    (t.draws ≠ s.draws → ∃ x nn, i = .rnd x nn)

/-- 10_state.md R26 (the slots are the spec's decision D5): the slots at `SP` and above cannot be observed: a step of two
states that differ in them alone gives two states that do. -/
def Obligations.StackSlotsAboveSpAreUnobservable : Prop :=
  ∀ s s' t : State, SameButDeadSlots s s' → step s = .next t → ∃ t', step s' = .next t' ∧ SameButDeadSlots t t'

/-- 10_state.md R27, R31, R33, 60_exceptions.md R203: no instruction reads `DRAW_FLAG`, `ST`, `HALT`, `ERR` or `ERR_OPCODE`:
what an instruction does to everything else does not depend on them. -/
def Obligations.HostRegistersAreUnobservable : Prop :=
  ∀ (i : Instr) (s s' t : State), SameToProgram s s' → exec i s = .next t →
    ∃ t', exec i s' = .next t' ∧ SameToProgram t t'

/-- 70_reset_and_hazards.md R255, 40_flow.md R122: a jump to its own address leaves the whole state unchanged at every
further step. -/
def Obligations.JumpToItselfChangesNothing : Prop := ∀ s : State, s.GoodEnd → step s = .next s
end

