-- ==== Sys2Proof/Laws/Decode.lean ====
section
/-! SUPPORT. Laws of the encoding: the fields of a word built by a format are the fields it was built from, a word is
rebuilt from its fields, and the bits a row is selected by. -/

namespace Sys2Proof

/-! ### Register fields -/

@[simp] theorem regBits_toFin (b : BitVec 4) : regBits b.toFin = b := rfl

@[simp] theorem toFin_regBits (x : Reg) : (regBits x).toFin = x := rfl

/-! ### Fields of an encoded word (30_encoding.md R91, R92) -/

@[simp] theorem fieldF_encXNN (op : BitVec 4) (x : Reg) (nn : Byte) : fieldF (encXNN op x nn) = op := by
  apply BitVec.eq_of_getLsbD_eq
  intro k hk
  simp only [fieldF, encXNN, BitVec.getLsbD_extractLsb', BitVec.getLsbD_append, hk, decide_true, Bool.true_and]
  rw [if_neg (by omega), if_neg (by omega)]
  congr 1
  omega

@[simp] theorem fieldX_encXNN (op : BitVec 4) (x : Reg) (nn : Byte) : fieldX (encXNN op x nn) = x := by
  have h : (encXNN op x nn).extractLsb' 8 4 = regBits x := by
    apply BitVec.eq_of_getLsbD_eq
    intro k hk
    simp only [encXNN, BitVec.getLsbD_extractLsb', BitVec.getLsbD_append, hk, decide_true, Bool.true_and]
    rw [if_neg (by omega), if_pos (by omega)]
    congr 1
    omega
  simp only [fieldX, h, toFin_regBits]

@[simp] theorem fieldNN_encXNN (op : BitVec 4) (x : Reg) (nn : Byte) : fieldNN (encXNN op x nn) = nn := by
  apply BitVec.eq_of_getLsbD_eq
  intro k hk
  simp only [fieldNN, encXNN, BitVec.getLsbD_extractLsb', BitVec.getLsbD_append, hk, decide_true, Bool.true_and]
  rw [if_pos (by omega)]
  congr 1
  omega

@[simp] theorem fieldF_encXYN (op : BitVec 4) (x y : Reg) (n : BitVec 4) : fieldF (encXYN op x y n) = op := by
  apply BitVec.eq_of_getLsbD_eq
  intro k hk
  simp only [fieldF, encXYN, BitVec.getLsbD_extractLsb', BitVec.getLsbD_append, hk, decide_true, Bool.true_and]
  rw [if_neg (by omega), if_neg (by omega), if_neg (by omega)]
  congr 1
  omega

@[simp] theorem fieldX_encXYN (op : BitVec 4) (x y : Reg) (n : BitVec 4) : fieldX (encXYN op x y n) = x := by
  have h : (encXYN op x y n).extractLsb' 8 4 = regBits x := by
    apply BitVec.eq_of_getLsbD_eq
    intro k hk
    simp only [encXYN, BitVec.getLsbD_extractLsb', BitVec.getLsbD_append, hk, decide_true, Bool.true_and]
    rw [if_neg (by omega), if_neg (by omega), if_pos (by omega)]
    congr 1
    omega
  simp only [fieldX, h, toFin_regBits]

@[simp] theorem fieldY_encXYN (op : BitVec 4) (x y : Reg) (n : BitVec 4) : fieldY (encXYN op x y n) = y := by
  have h : (encXYN op x y n).extractLsb' 4 4 = regBits y := by
    apply BitVec.eq_of_getLsbD_eq
    intro k hk
    simp only [encXYN, BitVec.getLsbD_extractLsb', BitVec.getLsbD_append, hk, decide_true, Bool.true_and]
    rw [if_neg (by omega), if_pos (by omega)]
    congr 1
    omega
  simp only [fieldY, h, toFin_regBits]

@[simp] theorem fieldN_encXYN (op : BitVec 4) (x y : Reg) (n : BitVec 4) : fieldN (encXYN op x y n) = n := by
  apply BitVec.eq_of_getLsbD_eq
  intro k hk
  simp only [fieldN, encXYN, BitVec.getLsbD_extractLsb', BitVec.getLsbD_append, hk, decide_true, Bool.true_and]
  rw [if_pos (by omega)]
  congr 1
  omega

@[simp] theorem fieldF_encNNN (op : BitVec 4) (nnn : BitVec 12) : fieldF (encNNN op nnn) = op := by
  apply BitVec.eq_of_getLsbD_eq
  intro k hk
  simp only [fieldF, encNNN, BitVec.getLsbD_extractLsb', BitVec.getLsbD_append, hk, decide_true, Bool.true_and]
  rw [if_neg (by omega)]
  congr 1
  omega

@[simp] theorem fieldNNN_encNNN (op : BitVec 4) (nnn : BitVec 12) : fieldNNN (encNNN op nnn) = nnn := by
  apply BitVec.eq_of_getLsbD_eq
  intro k hk
  simp only [fieldNNN, encNNN, BitVec.getLsbD_extractLsb', BitVec.getLsbD_append, hk, decide_true, Bool.true_and]
  rw [if_pos (by omega)]
  congr 1
  omega

/-! ### A word from its fields -/

theorem encNNN_fields (w : Word) : encNNN (fieldF w) (fieldNNN w) = w := by
  apply BitVec.eq_of_getLsbD_eq
  intro k hk
  simp only [encNNN, fieldF, fieldNNN, BitVec.getLsbD_append, BitVec.getLsbD_extractLsb']
  split
  · next h => simp [h]
  · next h =>
    have : k - 12 < 4 := by omega
    simp only [this, decide_true, Bool.true_and]
    congr 1
    omega

theorem encXNN_fields (w : Word) : encXNN (fieldF w) (fieldX w) (fieldNN w) = w := by
  apply BitVec.eq_of_getLsbD_eq
  intro k hk
  simp only [encXNN, fieldF, fieldX, fieldNN, regBits_toFin, BitVec.getLsbD_append, BitVec.getLsbD_extractLsb']
  split
  · next h => simp [h]
  · split
    · next h => simp only [h, decide_true, Bool.true_and]; congr 1; omega
    · have : k - 8 - 4 < 4 := by omega
      simp only [this, decide_true, Bool.true_and]
      congr 1
      omega

theorem encXYN_fields (w : Word) : encXYN (fieldF w) (fieldX w) (fieldY w) (fieldN w) = w := by
  apply BitVec.eq_of_getLsbD_eq
  intro k hk
  simp only [encXYN, fieldF, fieldX, fieldY, fieldN, regBits_toFin, BitVec.getLsbD_append, BitVec.getLsbD_extractLsb']
  split
  · next h => simp [h]
  · split
    · next h => simp only [h, decide_true, Bool.true_and]; congr 1; omega
    · split
      · next h => simp only [h, decide_true, Bool.true_and]; congr 1; omega
      · have : k - 4 - 4 - 4 < 4 := by omega
        simp only [this, decide_true, Bool.true_and]
        congr 1
        omega

/-! ### Taking a decoded word apart -/

/-- The sixteen families. -/
theorem nibble_cases (f : BitVec 4) :
    f = 0x0#4 ∨ f = 0x1#4 ∨ f = 0x2#4 ∨ f = 0x3#4 ∨ f = 0x4#4 ∨ f = 0x5#4 ∨ f = 0x6#4 ∨ f = 0x7#4 ∨
    f = 0x8#4 ∨ f = 0x9#4 ∨ f = 0xA#4 ∨ f = 0xB#4 ∨ f = 0xC#4 ∨ f = 0xD#4 ∨ f = 0xE#4 ∨ f = 0xF#4 := by
  revert f
  decide

theorem encNNN_of_family {w : Word} {op : BitVec 4} (h : fieldF w = op) : encNNN op (fieldNNN w) = w := by
  rw [← h, encNNN_fields]

theorem encXNN_of_family {w : Word} {op : BitVec 4} (h : fieldF w = op) : encXNN op (fieldX w) (fieldNN w) = w := by
  rw [← h, encXNN_fields]

theorem encXNN_of_sub {w : Word} {op : BitVec 4} {nn : Byte} (h : fieldF w = op) (hn : fieldNN w = nn) :
    encXNN op (fieldX w) nn = w := by
  rw [← h, ← hn, encXNN_fields]

theorem encXYN_of_sub {w : Word} {op n : BitVec 4} (h : fieldF w = op) (hn : fieldN w = n) :
    encXYN op (fieldX w) (fieldY w) n = w := by
  rw [← h, ← hn, encXYN_fields]

/-! ### The fields as numbers -/

theorem toNat_fieldF (w : Word) : (fieldF w).toNat = w.toNat / 4096 := by
  have := w.isLt
  simp only [fieldF, BitVec.extractLsb'_toNat, Nat.shiftRight_eq_div_pow]
  omega

theorem toNat_fieldN (w : Word) : (fieldN w).toNat = w.toNat % 16 := by
  simp [fieldN, BitVec.extractLsb'_toNat]

theorem toNat_fieldNN (w : Word) : (fieldNN w).toNat = w.toNat % 256 := by
  simp [fieldNN, BitVec.extractLsb'_toNat]

theorem toNat_fieldNNN (w : Word) : (fieldNNN w).toNat = w.toNat % 4096 := by
  simp [fieldNNN, BitVec.extractLsb'_toNat]

/-- A word from its two bytes (20_memory.md R64). -/
theorem highByte_append_lowByte (w : Word) : (w.extractLsb' 8 8 ++ w.extractLsb' 0 8 : BitVec 16) = w := by
  apply BitVec.eq_of_getLsbD_eq
  intro k hk
  simp only [BitVec.getLsbD_append, BitVec.getLsbD_extractLsb']
  split
  · next h => simp [h]
  · have h8 : k - 8 < 8 := by omega
    have e : 8 + (k - 8) = k := by omega
    simp [h8, e]

/-! ### The bits that select a row (30_encoding.md R95) -/

theorem and_allOnes4 (b : BitVec 4) : b &&& 0xF#4 = b := BitVec.and_allOnes

theorem and_allOnes8 (b : Byte) : b &&& 0xFF#8 = b := BitVec.and_allOnes

theorem encNNN_and_family (op : BitVec 4) (nnn : BitVec 12) : encNNN op nnn &&& 0xF000#16 = op ++ 0#12 := by
  have h : (0xF000#16 : Word) = (0xF#4 ++ 0#12 : BitVec 16) := by decide
  rw [encNNN, h, BitVec.and_append, and_allOnes4, BitVec.and_zero]

theorem encXNN_and_family (op : BitVec 4) (x : Reg) (nn : Byte) : encXNN op x nn &&& 0xF000#16 = op ++ 0#12 := by
  have h : (0xF000#16 : Word) = (0xF#4 ++ 0#4 ++ 0#8 : BitVec 16) := by decide
  have h0 : (op ++ 0#12 : BitVec 16) = (op ++ 0#4 ++ 0#8 : BitVec 16) := by revert op; decide
  rw [encXNN, h, h0, BitVec.and_append, BitVec.and_append, and_allOnes4, BitVec.and_zero, BitVec.and_zero]

theorem encXYN_and_family (op : BitVec 4) (x y : Reg) (n : BitVec 4) :
    encXYN op x y n &&& 0xF000#16 = op ++ 0#12 := by
  have h : (0xF000#16 : Word) = (0xF#4 ++ 0#4 ++ 0#4 ++ 0#4 : BitVec 16) := by decide
  have h0 : (op ++ 0#12 : BitVec 16) = (op ++ 0#4 ++ 0#4 ++ 0#4 : BitVec 16) := by revert op; decide
  rw [encXYN, h, h0, BitVec.and_append, BitVec.and_append, BitVec.and_append, and_allOnes4, BitVec.and_zero,
    BitVec.and_zero, BitVec.and_zero]

theorem encXYN_and_sub (op : BitVec 4) (x y : Reg) (n : BitVec 4) :
    encXYN op x y n &&& 0xF00F#16 = op ++ 0#4 ++ 0#4 ++ n := by
  have h : (0xF00F#16 : Word) = (0xF#4 ++ 0#4 ++ 0#4 ++ 0xF#4 : BitVec 16) := by decide
  rw [encXYN, h, BitVec.and_append, BitVec.and_append, BitVec.and_append, and_allOnes4, and_allOnes4, BitVec.and_zero,
    BitVec.and_zero]

theorem encXNN_and_sub (op : BitVec 4) (x : Reg) (nn : Byte) : encXNN op x nn &&& 0xF0FF#16 = op ++ 0#4 ++ nn := by
  have h : (0xF0FF#16 : Word) = (0xF#4 ++ 0#4 ++ 0xFF#8 : BitVec 16) := by decide
  rw [encXNN, h, BitVec.and_append, BitVec.and_append, and_allOnes4, BitVec.and_zero, and_allOnes8]

end Sys2Proof
end

