-- ==== Sys2Proof/Laws/State.lean ====
section
/-! SUPPORT. One lemma per field per update of the state, so that no later proof unfolds a record update. -/

namespace Sys2Proof.Machine

/-! ### `State.setReg` -/

@[simp] theorem State.v_setReg (s : State) (r : Reg) (b : Byte) : (s.setReg r b).v = s.v.set r.val b := rfl
@[simp] theorem State.i_setReg (s : State) (r : Reg) (b : Byte) : (s.setReg r b).i = s.i := rfl
@[simp] theorem State.pc_setReg (s : State) (r : Reg) (b : Byte) : (s.setReg r b).pc = s.pc := rfl
@[simp] theorem State.sp_setReg (s : State) (r : Reg) (b : Byte) : (s.setReg r b).sp = s.sp := rfl
@[simp] theorem State.stack_setReg (s : State) (r : Reg) (b : Byte) : (s.setReg r b).stack = s.stack := rfl
@[simp] theorem State.dt_setReg (s : State) (r : Reg) (b : Byte) : (s.setReg r b).dt = s.dt := rfl
@[simp] theorem State.st_setReg (s : State) (r : Reg) (b : Byte) : (s.setReg r b).st = s.st := rfl
@[simp] theorem State.keys_setReg (s : State) (r : Reg) (b : Byte) : (s.setReg r b).keys = s.keys := rfl
@[simp] theorem State.disp_setReg (s : State) (r : Reg) (b : Byte) : (s.setReg r b).disp = s.disp := rfl
@[simp] theorem State.drawFlag_setReg (s : State) (r : Reg) (b : Byte) : (s.setReg r b).drawFlag = s.drawFlag := rfl
@[simp] theorem State.wait_setReg (s : State) (r : Reg) (b : Byte) : (s.setReg r b).wait = s.wait := rfl
@[simp] theorem State.keyPrev_setReg (s : State) (r : Reg) (b : Byte) : (s.setReg r b).keyPrev = s.keyPrev := rfl
@[simp] theorem State.halt_setReg (s : State) (r : Reg) (b : Byte) : (s.setReg r b).halt = s.halt := rfl
@[simp] theorem State.err_setReg (s : State) (r : Reg) (b : Byte) : (s.setReg r b).err = s.err := rfl
@[simp] theorem State.errOpcode_setReg (s : State) (r : Reg) (b : Byte) : (s.setReg r b).errOpcode = s.errOpcode := rfl
@[simp] theorem State.mem_setReg (s : State) (r : Reg) (b : Byte) : (s.setReg r b).mem = s.mem := rfl
@[simp] theorem State.draws_setReg (s : State) (r : Reg) (b : Byte) : (s.setReg r b).draws = s.draws := rfl
@[simp] theorem State.params_setReg (s : State) (r : Reg) (b : Byte) : (s.setReg r b).params = s.params := rfl

/-! ### `State.setI` -/

@[simp] theorem State.v_setI (s : State) (w : Word) : (s.setI w).v = s.v := rfl
@[simp] theorem State.i_setI (s : State) (w : Word) : (s.setI w).i = w := rfl
@[simp] theorem State.pc_setI (s : State) (w : Word) : (s.setI w).pc = s.pc := rfl
@[simp] theorem State.sp_setI (s : State) (w : Word) : (s.setI w).sp = s.sp := rfl
@[simp] theorem State.stack_setI (s : State) (w : Word) : (s.setI w).stack = s.stack := rfl
@[simp] theorem State.dt_setI (s : State) (w : Word) : (s.setI w).dt = s.dt := rfl
@[simp] theorem State.st_setI (s : State) (w : Word) : (s.setI w).st = s.st := rfl
@[simp] theorem State.keys_setI (s : State) (w : Word) : (s.setI w).keys = s.keys := rfl
@[simp] theorem State.disp_setI (s : State) (w : Word) : (s.setI w).disp = s.disp := rfl
@[simp] theorem State.drawFlag_setI (s : State) (w : Word) : (s.setI w).drawFlag = s.drawFlag := rfl
@[simp] theorem State.wait_setI (s : State) (w : Word) : (s.setI w).wait = s.wait := rfl
@[simp] theorem State.keyPrev_setI (s : State) (w : Word) : (s.setI w).keyPrev = s.keyPrev := rfl
@[simp] theorem State.halt_setI (s : State) (w : Word) : (s.setI w).halt = s.halt := rfl
@[simp] theorem State.err_setI (s : State) (w : Word) : (s.setI w).err = s.err := rfl
@[simp] theorem State.errOpcode_setI (s : State) (w : Word) : (s.setI w).errOpcode = s.errOpcode := rfl
@[simp] theorem State.mem_setI (s : State) (w : Word) : (s.setI w).mem = s.mem := rfl
@[simp] theorem State.draws_setI (s : State) (w : Word) : (s.setI w).draws = s.draws := rfl
@[simp] theorem State.params_setI (s : State) (w : Word) : (s.setI w).params = s.params := rfl

/-! ### `State.setDT` -/

@[simp] theorem State.v_setDT (s : State) (b : Byte) : (s.setDT b).v = s.v := rfl
@[simp] theorem State.i_setDT (s : State) (b : Byte) : (s.setDT b).i = s.i := rfl
@[simp] theorem State.pc_setDT (s : State) (b : Byte) : (s.setDT b).pc = s.pc := rfl
@[simp] theorem State.sp_setDT (s : State) (b : Byte) : (s.setDT b).sp = s.sp := rfl
@[simp] theorem State.stack_setDT (s : State) (b : Byte) : (s.setDT b).stack = s.stack := rfl
@[simp] theorem State.dt_setDT (s : State) (b : Byte) : (s.setDT b).dt = b := rfl
@[simp] theorem State.st_setDT (s : State) (b : Byte) : (s.setDT b).st = s.st := rfl
@[simp] theorem State.keys_setDT (s : State) (b : Byte) : (s.setDT b).keys = s.keys := rfl
@[simp] theorem State.disp_setDT (s : State) (b : Byte) : (s.setDT b).disp = s.disp := rfl
@[simp] theorem State.drawFlag_setDT (s : State) (b : Byte) : (s.setDT b).drawFlag = s.drawFlag := rfl
@[simp] theorem State.wait_setDT (s : State) (b : Byte) : (s.setDT b).wait = s.wait := rfl
@[simp] theorem State.keyPrev_setDT (s : State) (b : Byte) : (s.setDT b).keyPrev = s.keyPrev := rfl
@[simp] theorem State.halt_setDT (s : State) (b : Byte) : (s.setDT b).halt = s.halt := rfl
@[simp] theorem State.err_setDT (s : State) (b : Byte) : (s.setDT b).err = s.err := rfl
@[simp] theorem State.errOpcode_setDT (s : State) (b : Byte) : (s.setDT b).errOpcode = s.errOpcode := rfl
@[simp] theorem State.mem_setDT (s : State) (b : Byte) : (s.setDT b).mem = s.mem := rfl
@[simp] theorem State.draws_setDT (s : State) (b : Byte) : (s.setDT b).draws = s.draws := rfl
@[simp] theorem State.params_setDT (s : State) (b : Byte) : (s.setDT b).params = s.params := rfl

/-! ### `State.setST` -/

@[simp] theorem State.v_setST (s : State) (b : Byte) : (s.setST b).v = s.v := rfl
@[simp] theorem State.i_setST (s : State) (b : Byte) : (s.setST b).i = s.i := rfl
@[simp] theorem State.pc_setST (s : State) (b : Byte) : (s.setST b).pc = s.pc := rfl
@[simp] theorem State.sp_setST (s : State) (b : Byte) : (s.setST b).sp = s.sp := rfl
@[simp] theorem State.stack_setST (s : State) (b : Byte) : (s.setST b).stack = s.stack := rfl
@[simp] theorem State.dt_setST (s : State) (b : Byte) : (s.setST b).dt = s.dt := rfl
@[simp] theorem State.st_setST (s : State) (b : Byte) : (s.setST b).st = b := rfl
@[simp] theorem State.keys_setST (s : State) (b : Byte) : (s.setST b).keys = s.keys := rfl
@[simp] theorem State.disp_setST (s : State) (b : Byte) : (s.setST b).disp = s.disp := rfl
@[simp] theorem State.drawFlag_setST (s : State) (b : Byte) : (s.setST b).drawFlag = s.drawFlag := rfl
@[simp] theorem State.wait_setST (s : State) (b : Byte) : (s.setST b).wait = s.wait := rfl
@[simp] theorem State.keyPrev_setST (s : State) (b : Byte) : (s.setST b).keyPrev = s.keyPrev := rfl
@[simp] theorem State.halt_setST (s : State) (b : Byte) : (s.setST b).halt = s.halt := rfl
@[simp] theorem State.err_setST (s : State) (b : Byte) : (s.setST b).err = s.err := rfl
@[simp] theorem State.errOpcode_setST (s : State) (b : Byte) : (s.setST b).errOpcode = s.errOpcode := rfl
@[simp] theorem State.mem_setST (s : State) (b : Byte) : (s.setST b).mem = s.mem := rfl
@[simp] theorem State.draws_setST (s : State) (b : Byte) : (s.setST b).draws = s.draws := rfl
@[simp] theorem State.params_setST (s : State) (b : Byte) : (s.setST b).params = s.params := rfl

/-! ### `State.memWrite` -/

@[simp] theorem State.v_memWrite (s : State) (a : Nat) (b : Byte) : (s.memWrite a b).v = s.v := rfl
@[simp] theorem State.i_memWrite (s : State) (a : Nat) (b : Byte) : (s.memWrite a b).i = s.i := rfl
@[simp] theorem State.pc_memWrite (s : State) (a : Nat) (b : Byte) : (s.memWrite a b).pc = s.pc := rfl
@[simp] theorem State.sp_memWrite (s : State) (a : Nat) (b : Byte) : (s.memWrite a b).sp = s.sp := rfl
@[simp] theorem State.stack_memWrite (s : State) (a : Nat) (b : Byte) : (s.memWrite a b).stack = s.stack := rfl
@[simp] theorem State.dt_memWrite (s : State) (a : Nat) (b : Byte) : (s.memWrite a b).dt = s.dt := rfl
@[simp] theorem State.st_memWrite (s : State) (a : Nat) (b : Byte) : (s.memWrite a b).st = s.st := rfl
@[simp] theorem State.keys_memWrite (s : State) (a : Nat) (b : Byte) : (s.memWrite a b).keys = s.keys := rfl
@[simp] theorem State.disp_memWrite (s : State) (a : Nat) (b : Byte) : (s.memWrite a b).disp = s.disp := rfl
@[simp] theorem State.drawFlag_memWrite (s : State) (a : Nat) (b : Byte) : (s.memWrite a b).drawFlag = s.drawFlag := rfl
@[simp] theorem State.wait_memWrite (s : State) (a : Nat) (b : Byte) : (s.memWrite a b).wait = s.wait := rfl
@[simp] theorem State.keyPrev_memWrite (s : State) (a : Nat) (b : Byte) : (s.memWrite a b).keyPrev = s.keyPrev := rfl
@[simp] theorem State.halt_memWrite (s : State) (a : Nat) (b : Byte) : (s.memWrite a b).halt = s.halt := rfl
@[simp] theorem State.err_memWrite (s : State) (a : Nat) (b : Byte) : (s.memWrite a b).err = s.err := rfl
@[simp] theorem State.errOpcode_memWrite (s : State) (a : Nat) (b : Byte) : (s.memWrite a b).errOpcode = s.errOpcode := rfl
@[simp] theorem State.mem_memWrite (s : State) (a : Nat) (b : Byte) : (s.memWrite a b).mem = memSet s.params s.mem (a % 4096) b := rfl
@[simp] theorem State.draws_memWrite (s : State) (a : Nat) (b : Byte) : (s.memWrite a b).draws = s.draws := rfl
@[simp] theorem State.params_memWrite (s : State) (a : Nat) (b : Byte) : (s.memWrite a b).params = s.params := rfl

/-! ### `State.loadRegsFrom` -/

@[simp] theorem State.i_loadRegsFrom (s : State) (a : Nat) (x : Reg) : (s.loadRegsFrom a x).i = s.i := rfl
@[simp] theorem State.pc_loadRegsFrom (s : State) (a : Nat) (x : Reg) : (s.loadRegsFrom a x).pc = s.pc := rfl
@[simp] theorem State.sp_loadRegsFrom (s : State) (a : Nat) (x : Reg) : (s.loadRegsFrom a x).sp = s.sp := rfl
@[simp] theorem State.stack_loadRegsFrom (s : State) (a : Nat) (x : Reg) : (s.loadRegsFrom a x).stack = s.stack := rfl
@[simp] theorem State.dt_loadRegsFrom (s : State) (a : Nat) (x : Reg) : (s.loadRegsFrom a x).dt = s.dt := rfl
@[simp] theorem State.st_loadRegsFrom (s : State) (a : Nat) (x : Reg) : (s.loadRegsFrom a x).st = s.st := rfl
@[simp] theorem State.keys_loadRegsFrom (s : State) (a : Nat) (x : Reg) : (s.loadRegsFrom a x).keys = s.keys := rfl
@[simp] theorem State.disp_loadRegsFrom (s : State) (a : Nat) (x : Reg) : (s.loadRegsFrom a x).disp = s.disp := rfl
@[simp] theorem State.drawFlag_loadRegsFrom (s : State) (a : Nat) (x : Reg) : (s.loadRegsFrom a x).drawFlag = s.drawFlag := rfl
@[simp] theorem State.wait_loadRegsFrom (s : State) (a : Nat) (x : Reg) : (s.loadRegsFrom a x).wait = s.wait := rfl
@[simp] theorem State.keyPrev_loadRegsFrom (s : State) (a : Nat) (x : Reg) : (s.loadRegsFrom a x).keyPrev = s.keyPrev := rfl
@[simp] theorem State.halt_loadRegsFrom (s : State) (a : Nat) (x : Reg) : (s.loadRegsFrom a x).halt = s.halt := rfl
@[simp] theorem State.err_loadRegsFrom (s : State) (a : Nat) (x : Reg) : (s.loadRegsFrom a x).err = s.err := rfl
@[simp] theorem State.errOpcode_loadRegsFrom (s : State) (a : Nat) (x : Reg) : (s.loadRegsFrom a x).errOpcode = s.errOpcode := rfl
@[simp] theorem State.mem_loadRegsFrom (s : State) (a : Nat) (x : Reg) : (s.loadRegsFrom a x).mem = s.mem := rfl
@[simp] theorem State.draws_loadRegsFrom (s : State) (a : Nat) (x : Reg) : (s.loadRegsFrom a x).draws = s.draws := rfl
@[simp] theorem State.params_loadRegsFrom (s : State) (a : Nat) (x : Reg) : (s.loadRegsFrom a x).params = s.params := rfl

/-! ### `State.advance` -/

@[simp] theorem State.v_advance (s : State) : (s.advance).v = s.v := rfl
@[simp] theorem State.i_advance (s : State) : (s.advance).i = s.i := rfl
@[simp] theorem State.pc_advance (s : State) : (s.advance).pc = s.npc := rfl
@[simp] theorem State.sp_advance (s : State) : (s.advance).sp = s.sp := rfl
@[simp] theorem State.stack_advance (s : State) : (s.advance).stack = s.stack := rfl
@[simp] theorem State.dt_advance (s : State) : (s.advance).dt = s.dt := rfl
@[simp] theorem State.st_advance (s : State) : (s.advance).st = s.st := rfl
@[simp] theorem State.keys_advance (s : State) : (s.advance).keys = s.keys := rfl
@[simp] theorem State.disp_advance (s : State) : (s.advance).disp = s.disp := rfl
@[simp] theorem State.drawFlag_advance (s : State) : (s.advance).drawFlag = s.drawFlag := rfl
@[simp] theorem State.wait_advance (s : State) : (s.advance).wait = s.wait := rfl
@[simp] theorem State.keyPrev_advance (s : State) : (s.advance).keyPrev = s.keyPrev := rfl
@[simp] theorem State.halt_advance (s : State) : (s.advance).halt = s.halt := rfl
@[simp] theorem State.err_advance (s : State) : (s.advance).err = s.err := rfl
@[simp] theorem State.errOpcode_advance (s : State) : (s.advance).errOpcode = s.errOpcode := rfl
@[simp] theorem State.mem_advance (s : State) : (s.advance).mem = s.mem := rfl
@[simp] theorem State.draws_advance (s : State) : (s.advance).draws = s.draws := rfl
@[simp] theorem State.params_advance (s : State) : (s.advance).params = s.params := rfl

/-! ### `State.jump` -/

@[simp] theorem State.v_jump (s : State) (w : Word) : (s.jump w).v = s.v := rfl
@[simp] theorem State.i_jump (s : State) (w : Word) : (s.jump w).i = s.i := rfl
@[simp] theorem State.pc_jump (s : State) (w : Word) : (s.jump w).pc = w := rfl
@[simp] theorem State.sp_jump (s : State) (w : Word) : (s.jump w).sp = s.sp := rfl
@[simp] theorem State.stack_jump (s : State) (w : Word) : (s.jump w).stack = s.stack := rfl
@[simp] theorem State.dt_jump (s : State) (w : Word) : (s.jump w).dt = s.dt := rfl
@[simp] theorem State.st_jump (s : State) (w : Word) : (s.jump w).st = s.st := rfl
@[simp] theorem State.keys_jump (s : State) (w : Word) : (s.jump w).keys = s.keys := rfl
@[simp] theorem State.disp_jump (s : State) (w : Word) : (s.jump w).disp = s.disp := rfl
@[simp] theorem State.drawFlag_jump (s : State) (w : Word) : (s.jump w).drawFlag = s.drawFlag := rfl
@[simp] theorem State.wait_jump (s : State) (w : Word) : (s.jump w).wait = s.wait := rfl
@[simp] theorem State.keyPrev_jump (s : State) (w : Word) : (s.jump w).keyPrev = s.keyPrev := rfl
@[simp] theorem State.halt_jump (s : State) (w : Word) : (s.jump w).halt = s.halt := rfl
@[simp] theorem State.err_jump (s : State) (w : Word) : (s.jump w).err = s.err := rfl
@[simp] theorem State.errOpcode_jump (s : State) (w : Word) : (s.jump w).errOpcode = s.errOpcode := rfl
@[simp] theorem State.mem_jump (s : State) (w : Word) : (s.jump w).mem = s.mem := rfl
@[simp] theorem State.draws_jump (s : State) (w : Word) : (s.jump w).draws = s.draws := rfl
@[simp] theorem State.params_jump (s : State) (w : Word) : (s.jump w).params = s.params := rfl

/-! ### `State.raise` -/

@[simp] theorem State.v_raise (s : State) (e : ErrCode) (w : Word) : (s.raise e w).v = s.v := rfl
@[simp] theorem State.i_raise (s : State) (e : ErrCode) (w : Word) : (s.raise e w).i = s.i := rfl
@[simp] theorem State.pc_raise (s : State) (e : ErrCode) (w : Word) : (s.raise e w).pc = s.pc := rfl
@[simp] theorem State.sp_raise (s : State) (e : ErrCode) (w : Word) : (s.raise e w).sp = s.sp := rfl
@[simp] theorem State.stack_raise (s : State) (e : ErrCode) (w : Word) : (s.raise e w).stack = s.stack := rfl
@[simp] theorem State.dt_raise (s : State) (e : ErrCode) (w : Word) : (s.raise e w).dt = s.dt := rfl
@[simp] theorem State.st_raise (s : State) (e : ErrCode) (w : Word) : (s.raise e w).st = s.st := rfl
@[simp] theorem State.keys_raise (s : State) (e : ErrCode) (w : Word) : (s.raise e w).keys = s.keys := rfl
@[simp] theorem State.disp_raise (s : State) (e : ErrCode) (w : Word) : (s.raise e w).disp = s.disp := rfl
@[simp] theorem State.drawFlag_raise (s : State) (e : ErrCode) (w : Word) : (s.raise e w).drawFlag = s.drawFlag := rfl
@[simp] theorem State.wait_raise (s : State) (e : ErrCode) (w : Word) : (s.raise e w).wait = s.wait := rfl
@[simp] theorem State.keyPrev_raise (s : State) (e : ErrCode) (w : Word) : (s.raise e w).keyPrev = s.keyPrev := rfl
@[simp] theorem State.halt_raise (s : State) (e : ErrCode) (w : Word) : (s.raise e w).halt = true := rfl
@[simp] theorem State.err_raise (s : State) (e : ErrCode) (w : Word) : (s.raise e w).err = e := rfl
@[simp] theorem State.errOpcode_raise (s : State) (e : ErrCode) (w : Word) : (s.raise e w).errOpcode = w := rfl
@[simp] theorem State.mem_raise (s : State) (e : ErrCode) (w : Word) : (s.raise e w).mem = s.mem := rfl
@[simp] theorem State.draws_raise (s : State) (e : ErrCode) (w : Word) : (s.raise e w).draws = s.draws := rfl
@[simp] theorem State.params_raise (s : State) (e : ErrCode) (w : Word) : (s.raise e w).params = s.params := rfl

/-! ### `State.setDisplay` -/

@[simp] theorem State.v_setDisplay (s : State) (d : Vector Row 32) : (s.setDisplay d).v = s.v := rfl
@[simp] theorem State.i_setDisplay (s : State) (d : Vector Row 32) : (s.setDisplay d).i = s.i := rfl
@[simp] theorem State.pc_setDisplay (s : State) (d : Vector Row 32) : (s.setDisplay d).pc = s.pc := rfl
@[simp] theorem State.sp_setDisplay (s : State) (d : Vector Row 32) : (s.setDisplay d).sp = s.sp := rfl
@[simp] theorem State.stack_setDisplay (s : State) (d : Vector Row 32) : (s.setDisplay d).stack = s.stack := rfl
@[simp] theorem State.dt_setDisplay (s : State) (d : Vector Row 32) : (s.setDisplay d).dt = s.dt := rfl
@[simp] theorem State.st_setDisplay (s : State) (d : Vector Row 32) : (s.setDisplay d).st = s.st := rfl
@[simp] theorem State.keys_setDisplay (s : State) (d : Vector Row 32) : (s.setDisplay d).keys = s.keys := rfl
@[simp] theorem State.disp_setDisplay (s : State) (d : Vector Row 32) : (s.setDisplay d).disp = d := rfl
@[simp] theorem State.drawFlag_setDisplay (s : State) (d : Vector Row 32) : (s.setDisplay d).drawFlag = true := rfl
@[simp] theorem State.wait_setDisplay (s : State) (d : Vector Row 32) : (s.setDisplay d).wait = s.wait := rfl
@[simp] theorem State.keyPrev_setDisplay (s : State) (d : Vector Row 32) : (s.setDisplay d).keyPrev = s.keyPrev := rfl
@[simp] theorem State.halt_setDisplay (s : State) (d : Vector Row 32) : (s.setDisplay d).halt = s.halt := rfl
@[simp] theorem State.err_setDisplay (s : State) (d : Vector Row 32) : (s.setDisplay d).err = s.err := rfl
@[simp] theorem State.errOpcode_setDisplay (s : State) (d : Vector Row 32) : (s.setDisplay d).errOpcode = s.errOpcode := rfl
@[simp] theorem State.mem_setDisplay (s : State) (d : Vector Row 32) : (s.setDisplay d).mem = s.mem := rfl
@[simp] theorem State.draws_setDisplay (s : State) (d : Vector Row 32) : (s.setDisplay d).draws = s.draws := rfl
@[simp] theorem State.params_setDisplay (s : State) (d : Vector Row 32) : (s.setDisplay d).params = s.params := rfl

/-! ### `State.sampleKeys` -/

@[simp] theorem State.v_sampleKeys (s : State) (b : Bool) : (s.sampleKeys b).v = s.v := rfl
@[simp] theorem State.i_sampleKeys (s : State) (b : Bool) : (s.sampleKeys b).i = s.i := rfl
@[simp] theorem State.pc_sampleKeys (s : State) (b : Bool) : (s.sampleKeys b).pc = s.pc := rfl
@[simp] theorem State.sp_sampleKeys (s : State) (b : Bool) : (s.sampleKeys b).sp = s.sp := rfl
@[simp] theorem State.stack_sampleKeys (s : State) (b : Bool) : (s.sampleKeys b).stack = s.stack := rfl
@[simp] theorem State.dt_sampleKeys (s : State) (b : Bool) : (s.sampleKeys b).dt = s.dt := rfl
@[simp] theorem State.st_sampleKeys (s : State) (b : Bool) : (s.sampleKeys b).st = s.st := rfl
@[simp] theorem State.keys_sampleKeys (s : State) (b : Bool) : (s.sampleKeys b).keys = s.keys := rfl
@[simp] theorem State.disp_sampleKeys (s : State) (b : Bool) : (s.sampleKeys b).disp = s.disp := rfl
@[simp] theorem State.drawFlag_sampleKeys (s : State) (b : Bool) : (s.sampleKeys b).drawFlag = s.drawFlag := rfl
@[simp] theorem State.wait_sampleKeys (s : State) (b : Bool) : (s.sampleKeys b).wait = b := rfl
@[simp] theorem State.keyPrev_sampleKeys (s : State) (b : Bool) : (s.sampleKeys b).keyPrev = s.keys := rfl
@[simp] theorem State.halt_sampleKeys (s : State) (b : Bool) : (s.sampleKeys b).halt = s.halt := rfl
@[simp] theorem State.err_sampleKeys (s : State) (b : Bool) : (s.sampleKeys b).err = s.err := rfl
@[simp] theorem State.errOpcode_sampleKeys (s : State) (b : Bool) : (s.sampleKeys b).errOpcode = s.errOpcode := rfl
@[simp] theorem State.mem_sampleKeys (s : State) (b : Bool) : (s.sampleKeys b).mem = s.mem := rfl
@[simp] theorem State.draws_sampleKeys (s : State) (b : Bool) : (s.sampleKeys b).draws = s.draws := rfl
@[simp] theorem State.params_sampleKeys (s : State) (b : Bool) : (s.sampleKeys b).params = s.params := rfl

/-! ### `State.drawRandom` -/

@[simp] theorem State.v_drawRandom (s : State) : (s.drawRandom).v = s.v := rfl
@[simp] theorem State.i_drawRandom (s : State) : (s.drawRandom).i = s.i := rfl
@[simp] theorem State.pc_drawRandom (s : State) : (s.drawRandom).pc = s.pc := rfl
@[simp] theorem State.sp_drawRandom (s : State) : (s.drawRandom).sp = s.sp := rfl
@[simp] theorem State.stack_drawRandom (s : State) : (s.drawRandom).stack = s.stack := rfl
@[simp] theorem State.dt_drawRandom (s : State) : (s.drawRandom).dt = s.dt := rfl
@[simp] theorem State.st_drawRandom (s : State) : (s.drawRandom).st = s.st := rfl
@[simp] theorem State.keys_drawRandom (s : State) : (s.drawRandom).keys = s.keys := rfl
@[simp] theorem State.disp_drawRandom (s : State) : (s.drawRandom).disp = s.disp := rfl
@[simp] theorem State.drawFlag_drawRandom (s : State) : (s.drawRandom).drawFlag = s.drawFlag := rfl
@[simp] theorem State.wait_drawRandom (s : State) : (s.drawRandom).wait = s.wait := rfl
@[simp] theorem State.keyPrev_drawRandom (s : State) : (s.drawRandom).keyPrev = s.keyPrev := rfl
@[simp] theorem State.halt_drawRandom (s : State) : (s.drawRandom).halt = s.halt := rfl
@[simp] theorem State.err_drawRandom (s : State) : (s.drawRandom).err = s.err := rfl
@[simp] theorem State.errOpcode_drawRandom (s : State) : (s.drawRandom).errOpcode = s.errOpcode := rfl
@[simp] theorem State.mem_drawRandom (s : State) : (s.drawRandom).mem = s.mem := rfl
@[simp] theorem State.draws_drawRandom (s : State) : (s.drawRandom).draws = s.draws + 1 := rfl
@[simp] theorem State.params_drawRandom (s : State) : (s.drawRandom).params = s.params := rfl

/-! ### `State.tick` -/

@[simp] theorem State.v_tick (s : State) : (s.tick).v = s.v := rfl
@[simp] theorem State.i_tick (s : State) : (s.tick).i = s.i := rfl
@[simp] theorem State.pc_tick (s : State) : (s.tick).pc = s.pc := rfl
@[simp] theorem State.sp_tick (s : State) : (s.tick).sp = s.sp := rfl
@[simp] theorem State.stack_tick (s : State) : (s.tick).stack = s.stack := rfl
@[simp] theorem State.dt_tick (s : State) : (s.tick).dt = countDown s.dt := rfl
@[simp] theorem State.st_tick (s : State) : (s.tick).st = countDown s.st := rfl
@[simp] theorem State.keys_tick (s : State) : (s.tick).keys = s.keys := rfl
@[simp] theorem State.disp_tick (s : State) : (s.tick).disp = s.disp := rfl
@[simp] theorem State.drawFlag_tick (s : State) : (s.tick).drawFlag = s.drawFlag := rfl
@[simp] theorem State.wait_tick (s : State) : (s.tick).wait = s.wait := rfl
@[simp] theorem State.keyPrev_tick (s : State) : (s.tick).keyPrev = s.keyPrev := rfl
@[simp] theorem State.halt_tick (s : State) : (s.tick).halt = s.halt := rfl
@[simp] theorem State.err_tick (s : State) : (s.tick).err = s.err := rfl
@[simp] theorem State.errOpcode_tick (s : State) : (s.tick).errOpcode = s.errOpcode := rfl
@[simp] theorem State.mem_tick (s : State) : (s.tick).mem = s.mem := rfl
@[simp] theorem State.draws_tick (s : State) : (s.tick).draws = s.draws := rfl
@[simp] theorem State.params_tick (s : State) : (s.tick).params = s.params := rfl

/-! ### `State.setKey` -/

@[simp] theorem State.v_setKey (s : State) (k : Key) (b : Bool) : (s.setKey k b).v = s.v := rfl
@[simp] theorem State.i_setKey (s : State) (k : Key) (b : Bool) : (s.setKey k b).i = s.i := rfl
@[simp] theorem State.pc_setKey (s : State) (k : Key) (b : Bool) : (s.setKey k b).pc = s.pc := rfl
@[simp] theorem State.sp_setKey (s : State) (k : Key) (b : Bool) : (s.setKey k b).sp = s.sp := rfl
@[simp] theorem State.stack_setKey (s : State) (k : Key) (b : Bool) : (s.setKey k b).stack = s.stack := rfl
@[simp] theorem State.dt_setKey (s : State) (k : Key) (b : Bool) : (s.setKey k b).dt = s.dt := rfl
@[simp] theorem State.st_setKey (s : State) (k : Key) (b : Bool) : (s.setKey k b).st = s.st := rfl
@[simp] theorem State.disp_setKey (s : State) (k : Key) (b : Bool) : (s.setKey k b).disp = s.disp := rfl
@[simp] theorem State.drawFlag_setKey (s : State) (k : Key) (b : Bool) : (s.setKey k b).drawFlag = s.drawFlag := rfl
@[simp] theorem State.wait_setKey (s : State) (k : Key) (b : Bool) : (s.setKey k b).wait = s.wait := rfl
@[simp] theorem State.keyPrev_setKey (s : State) (k : Key) (b : Bool) : (s.setKey k b).keyPrev = s.keyPrev := rfl
@[simp] theorem State.halt_setKey (s : State) (k : Key) (b : Bool) : (s.setKey k b).halt = s.halt := rfl
@[simp] theorem State.err_setKey (s : State) (k : Key) (b : Bool) : (s.setKey k b).err = s.err := rfl
@[simp] theorem State.errOpcode_setKey (s : State) (k : Key) (b : Bool) : (s.setKey k b).errOpcode = s.errOpcode := rfl
@[simp] theorem State.mem_setKey (s : State) (k : Key) (b : Bool) : (s.setKey k b).mem = s.mem := rfl
@[simp] theorem State.draws_setKey (s : State) (k : Key) (b : Bool) : (s.setKey k b).draws = s.draws := rfl
@[simp] theorem State.params_setKey (s : State) (k : Key) (b : Bool) : (s.setKey k b).params = s.params := rfl

/-! ### `State.clearDrawFlag` -/

@[simp] theorem State.v_clearDrawFlag (s : State) : (s.clearDrawFlag).v = s.v := rfl
@[simp] theorem State.i_clearDrawFlag (s : State) : (s.clearDrawFlag).i = s.i := rfl
@[simp] theorem State.pc_clearDrawFlag (s : State) : (s.clearDrawFlag).pc = s.pc := rfl
@[simp] theorem State.sp_clearDrawFlag (s : State) : (s.clearDrawFlag).sp = s.sp := rfl
@[simp] theorem State.stack_clearDrawFlag (s : State) : (s.clearDrawFlag).stack = s.stack := rfl
@[simp] theorem State.dt_clearDrawFlag (s : State) : (s.clearDrawFlag).dt = s.dt := rfl
@[simp] theorem State.st_clearDrawFlag (s : State) : (s.clearDrawFlag).st = s.st := rfl
@[simp] theorem State.keys_clearDrawFlag (s : State) : (s.clearDrawFlag).keys = s.keys := rfl
@[simp] theorem State.disp_clearDrawFlag (s : State) : (s.clearDrawFlag).disp = s.disp := rfl
@[simp] theorem State.drawFlag_clearDrawFlag (s : State) : (s.clearDrawFlag).drawFlag = false := rfl
@[simp] theorem State.wait_clearDrawFlag (s : State) : (s.clearDrawFlag).wait = s.wait := rfl
@[simp] theorem State.keyPrev_clearDrawFlag (s : State) : (s.clearDrawFlag).keyPrev = s.keyPrev := rfl
@[simp] theorem State.halt_clearDrawFlag (s : State) : (s.clearDrawFlag).halt = s.halt := rfl
@[simp] theorem State.err_clearDrawFlag (s : State) : (s.clearDrawFlag).err = s.err := rfl
@[simp] theorem State.errOpcode_clearDrawFlag (s : State) : (s.clearDrawFlag).errOpcode = s.errOpcode := rfl
@[simp] theorem State.mem_clearDrawFlag (s : State) : (s.clearDrawFlag).mem = s.mem := rfl
@[simp] theorem State.draws_clearDrawFlag (s : State) : (s.clearDrawFlag).draws = s.draws := rfl
@[simp] theorem State.params_clearDrawFlag (s : State) : (s.clearDrawFlag).params = s.params := rfl

/-! ### Storing a list of bytes changes memory alone -/

@[simp] theorem State.v_memWriteList (bs : List Byte) : ∀ (s : State) (a : Nat), (s.memWriteList a bs).v = s.v := by
  induction bs with
  | nil => intro s a; rfl
  | cons b bs ih => intro s a; simp [State.memWriteList, ih]
@[simp] theorem State.i_memWriteList (bs : List Byte) : ∀ (s : State) (a : Nat), (s.memWriteList a bs).i = s.i := by
  induction bs with
  | nil => intro s a; rfl
  | cons b bs ih => intro s a; simp [State.memWriteList, ih]
@[simp] theorem State.pc_memWriteList (bs : List Byte) : ∀ (s : State) (a : Nat), (s.memWriteList a bs).pc = s.pc := by
  induction bs with
  | nil => intro s a; rfl
  | cons b bs ih => intro s a; simp [State.memWriteList, ih]
@[simp] theorem State.sp_memWriteList (bs : List Byte) : ∀ (s : State) (a : Nat), (s.memWriteList a bs).sp = s.sp := by
  induction bs with
  | nil => intro s a; rfl
  | cons b bs ih => intro s a; simp [State.memWriteList, ih]
@[simp] theorem State.stack_memWriteList (bs : List Byte) : ∀ (s : State) (a : Nat), (s.memWriteList a bs).stack = s.stack := by
  induction bs with
  | nil => intro s a; rfl
  | cons b bs ih => intro s a; simp [State.memWriteList, ih]
@[simp] theorem State.dt_memWriteList (bs : List Byte) : ∀ (s : State) (a : Nat), (s.memWriteList a bs).dt = s.dt := by
  induction bs with
  | nil => intro s a; rfl
  | cons b bs ih => intro s a; simp [State.memWriteList, ih]
@[simp] theorem State.st_memWriteList (bs : List Byte) : ∀ (s : State) (a : Nat), (s.memWriteList a bs).st = s.st := by
  induction bs with
  | nil => intro s a; rfl
  | cons b bs ih => intro s a; simp [State.memWriteList, ih]
@[simp] theorem State.keys_memWriteList (bs : List Byte) : ∀ (s : State) (a : Nat), (s.memWriteList a bs).keys = s.keys := by
  induction bs with
  | nil => intro s a; rfl
  | cons b bs ih => intro s a; simp [State.memWriteList, ih]
@[simp] theorem State.disp_memWriteList (bs : List Byte) : ∀ (s : State) (a : Nat), (s.memWriteList a bs).disp = s.disp := by
  induction bs with
  | nil => intro s a; rfl
  | cons b bs ih => intro s a; simp [State.memWriteList, ih]
@[simp] theorem State.drawFlag_memWriteList (bs : List Byte) : ∀ (s : State) (a : Nat), (s.memWriteList a bs).drawFlag = s.drawFlag := by
  induction bs with
  | nil => intro s a; rfl
  | cons b bs ih => intro s a; simp [State.memWriteList, ih]
@[simp] theorem State.wait_memWriteList (bs : List Byte) : ∀ (s : State) (a : Nat), (s.memWriteList a bs).wait = s.wait := by
  induction bs with
  | nil => intro s a; rfl
  | cons b bs ih => intro s a; simp [State.memWriteList, ih]
@[simp] theorem State.keyPrev_memWriteList (bs : List Byte) : ∀ (s : State) (a : Nat), (s.memWriteList a bs).keyPrev = s.keyPrev := by
  induction bs with
  | nil => intro s a; rfl
  | cons b bs ih => intro s a; simp [State.memWriteList, ih]
@[simp] theorem State.halt_memWriteList (bs : List Byte) : ∀ (s : State) (a : Nat), (s.memWriteList a bs).halt = s.halt := by
  induction bs with
  | nil => intro s a; rfl
  | cons b bs ih => intro s a; simp [State.memWriteList, ih]
@[simp] theorem State.err_memWriteList (bs : List Byte) : ∀ (s : State) (a : Nat), (s.memWriteList a bs).err = s.err := by
  induction bs with
  | nil => intro s a; rfl
  | cons b bs ih => intro s a; simp [State.memWriteList, ih]
@[simp] theorem State.errOpcode_memWriteList (bs : List Byte) : ∀ (s : State) (a : Nat), (s.memWriteList a bs).errOpcode = s.errOpcode := by
  induction bs with
  | nil => intro s a; rfl
  | cons b bs ih => intro s a; simp [State.memWriteList, ih]
@[simp] theorem State.draws_memWriteList (bs : List Byte) : ∀ (s : State) (a : Nat), (s.memWriteList a bs).draws = s.draws := by
  induction bs with
  | nil => intro s a; rfl
  | cons b bs ih => intro s a; simp [State.memWriteList, ih]
@[simp] theorem State.params_memWriteList (bs : List Byte) : ∀ (s : State) (a : Nat), (s.memWriteList a bs).params = s.params := by
  induction bs with
  | nil => intro s a; rfl
  | cons b bs ih => intro s a; simp [State.memWriteList, ih]

/-- The frame of storing a list of bytes. -/
theorem State.memWriteList_eq (s : State) (a : Nat) (bs : List Byte) :
    s.memWriteList a bs = { s with mem := (s.memWriteList a bs).mem } := by
  induction bs generalizing s a with
  | nil => rfl
  | cons b bs ih =>
    rw [State.memWriteList, ih]
    rfl

/-- The memory after storing a list of bytes depends on the memory and the parameters alone. -/
theorem State.mem_memWriteList_congr {s t : State} (hp : t.params = s.params) (h : t.mem = s.mem) (a : Nat)
    (bs : List Byte) : (t.memWriteList a bs).mem = (s.memWriteList a bs).mem := by
  induction bs generalizing s t a with
  | nil => exact h
  | cons b bs ih => exact ih (by simp [hp]) (by simp [h, hp]) _

/-! ### Reading a register after a write (10_state.md R20) -/

@[simp] theorem State.reg_setReg (s : State) (r r' : Reg) (b : Byte) :
    (s.setReg r b).reg r' = if r' = r then b else s.reg r' := by
  by_cases h : r' = r
  · subst h; simp [State.reg]
  · have h' : r.val ≠ r'.val := fun e => h (Fin.ext e.symm)
    simp [State.reg, h, h']

/-- Reading registers depends on the register file alone. -/
theorem State.reg_congr {s t : State} (h : t.v = s.v) (r : Reg) : t.reg r = s.reg r := by
  simp [State.reg, h]

/-- Two states with the same registers have the same register file. -/
theorem State.v_ext {s t : State} (h : ∀ r, t.reg r = s.reg r) : t.v = s.v :=
  Vector.ext fun k hk => h ⟨k, hk⟩

@[simp] theorem State.reg_loadRegsFrom (s : State) (a : Nat) (x r : Reg) :
    (s.loadRegsFrom a x).reg r = if r ≤ x then s.memRead (a + r.val) else s.reg r := by
  simp [State.reg, State.loadRegsFrom]

/-! ### Two writes of one instruction (10_state.md R22) -/

@[simp] theorem State.reg_resultThenFlag (s : State) (x r : Reg) (result flag : Byte) :
    (s.resultThenFlag x result flag).reg r = if r = vf then flag else if r = x then result else s.reg r := by
  simp [State.resultThenFlag]

@[simp] theorem State.reg_flagThenResult (s : State) (x r : Reg) (result flag : Byte) :
    (s.flagThenResult x result flag).reg r = if r = x then result else if r = vf then flag else s.reg r := by
  simp [State.flagThenResult]

/-! ### The stack (10_state.md R26) -/

/-- Push, in full. -/
theorem State.push_eq_some {s t : State} {w : Word} (h : s.push w = some t) :
    ∃ hs : s.sp.val < 16, t = { s with stack := s.stack.set s.sp.val w, sp := ⟨s.sp.val + 1, by omega⟩ } := by
  unfold State.push at h
  split at h
  · next hs => exact ⟨hs, by simpa using h.symm⟩
  · simp at h

theorem State.push_eq_none {s : State} {w : Word} : s.push w = none ↔ s.sp.val = 16 := by
  unfold State.push
  split <;> simp <;> omega

/-- Pop, in full. -/
theorem State.pop_eq_some {s t : State} {w : Word} (h : s.pop = some (w, t)) :
    ∃ hs : 0 < s.sp.val, w = s.stack[s.sp.val - 1] ∧ t = { s with sp := ⟨s.sp.val - 1, by omega⟩ } := by
  unfold State.pop at h
  split at h
  · next hs =>
    simp only [Option.some.injEq, Prod.mk.injEq] at h
    exact ⟨hs, h.1.symm, h.2.symm⟩
  · simp at h

theorem State.pop_eq_none {s : State} : s.pop = none ↔ s.sp.val = 0 := by
  unfold State.pop
  split <;> simp <;> omega

/-- What a skip does: it changes `PC` alone (41_skip.md). -/
theorem State.skipIf_eq (s : State) (c : Bool) :
    s.skipIf c = s.jump (if c then s.npc + 2#16 else s.npc) := by
  cases c <;> rfl

end Sys2Proof.Machine
end

