-- ==== Sys2Proof/Laws/Display.lean ====
section
/-! SUPPORT. What drawing a sprite can do, cell by cell (44_display.md R171). -/

namespace Sys2Proof.Machine

/-- A sprite byte covers eight columns from `x0` on, its bit 7 the first; what passes column 63 is lost. -/
theorem getMsbD_spriteRowBits (x0 : Nat) (b : Byte) {x : Nat} (hx : x < 64) :
    (spriteRowBits x0 b).getMsbD x = (decide (x0 ≤ x ∧ x < x0 + 8) && b.getLsbD (7 - (x - x0))) := by
  unfold spriteRowBits
  rw [BitVec.getMsbD_ushiftRight, BitVec.getMsbD_append]
  by_cases h1 : x0 ≤ x
  · by_cases h2 : x < x0 + 8
    · have h3 : ¬ x < x0 := by omega
      have h4 : x - x0 < 8 := by omega
      have h5 : 8 - 1 - (x - x0) = 7 - (x - x0) := by omega
      simp [h1, h2, h3, h4, hx, BitVec.getMsbD]
    · have h3 : ¬ x < x0 := by omega
      have h4 : ¬ x - x0 < 8 := by omega
      simp [h2, h3, h4]
  · have h3 : x < x0 := by omega
    simp [h1, h3]

/-- Drawing depends on the display, `I` and memory alone. -/
theorem drawRows_congr {s t : State} (hd : t.disp = s.disp) (hi : t.i = s.i) (hp : t.params = s.params) (hm : t.mem = s.mem)
    (x0 y0 n : Nat) :
    t.drawRows x0 y0 n = s.drawRows x0 y0 n := by
  induction n with
  | zero => simp [State.drawRows, hd]
  | succ n ih =>
    have hr : t.memRead (t.indexed n) = s.memRead (s.indexed n) := by rw [State.memRead, State.memRead, State.indexed, State.indexed, hi, hp, hm]
    simp only [State.drawRows, ih, hr]

/-- The row `y` of the display after drawing `n` sprite rows. -/
theorem drawRows_row (s : State) (x0 y0 n y : Nat) (hy : y < 32) :
    (s.drawRows x0 y0 n).1[y] =
      if y0 ≤ y ∧ y < y0 + n then s.disp[y] ^^^ spriteRowBits x0 (s.memRead (s.indexed (y - y0))) else s.disp[y] := by
  induction n with
  | zero =>
    have : ¬ (y0 ≤ y ∧ y < y0 + 0) := by omega
    simp only [this, if_false]
    rfl
  | succ n ih =>
    unfold State.drawRows
    simp only
    split
    · next h =>
      simp only [Vector.getElem_set]
      by_cases e : y0 + n = y
      · subst e
        have h1 : ¬ (y0 ≤ y0 + n ∧ y0 + n < y0 + n) := by omega
        have h2 : y0 ≤ y0 + n ∧ y0 + n < y0 + (n + 1) := by omega
        have h3 : y0 + n - y0 = n := by omega
        rw [if_neg h1] at ih
        rw [if_pos rfl, if_pos h2, ih, h3]
      · rw [if_neg e, ih]
        have : (y0 ≤ y ∧ y < y0 + (n + 1)) ↔ (y0 ≤ y ∧ y < y0 + n) := by omega
        simp only [this]
    · next h =>
      rw [ih]
      have : (y0 ≤ y ∧ y < y0 + (n + 1)) ↔ (y0 ≤ y ∧ y < y0 + n) := by omega
      simp only [this]

/-- When drawing `n` sprite rows meets a cell that is on. -/
theorem drawRows_hit (s : State) (x0 y0 n : Nat) :
    (s.drawRows x0 y0 n).2 = true ↔
      ∃ r, r < n ∧ ∃ h : y0 + r < 32, s.disp[y0 + r] &&& spriteRowBits x0 (s.memRead (s.indexed r)) ≠ 0#64 := by
  induction n with
  | zero =>
    constructor
    · intro h; cases h
    · rintro ⟨r, hr, -⟩; omega
  | succ n ih =>
    unfold State.drawRows
    simp only
    split
    · next h =>
      have hrow : (s.drawRows x0 y0 n).1[y0 + n] = s.disp[y0 + n] := by
        rw [drawRows_row s x0 y0 n (y0 + n) h, if_neg (by omega)]
      simp only [Bool.or_eq_true, ih, decide_eq_true_eq, hrow]
      constructor
      · rintro (⟨r, hr, h', hm⟩ | hm)
        · exact ⟨r, by omega, h', hm⟩
        · exact ⟨n, by omega, h, hm⟩
      · rintro ⟨r, hr, h', hm⟩
        by_cases e : r = n
        · subst e; exact Or.inr hm
        · exact Or.inl ⟨r, by omega, h', hm⟩
    · next h =>
      rw [ih]
      constructor
      · rintro ⟨r, hr, h', hm⟩; exact ⟨r, by omega, h', hm⟩
      · rintro ⟨r, hr, h', hm⟩; exact ⟨r, by omega, h', hm⟩

/-- A word of cells is not blank exactly when some column is on. -/
theorem row_ne_zero (w : Row) : w ≠ 0#64 ↔ ∃ x, x < 64 ∧ w.getMsbD x = true := by
  constructor
  · intro h
    by_contra hc
    apply h
    apply BitVec.eq_of_getMsbD_eq
    intro k hk
    cases hb : w.getMsbD k with
    | false => simp
    | true => exact absurd ⟨k, hk, hb⟩ hc
  · rintro ⟨x, -, hx⟩ rfl
    simp at hx

end Sys2Proof.Machine
end

