-- ==== Sys2Proof/Laws/Memory.lean ====
section
/-! SUPPORT. The laws of memory: a read after a write, other addresses untouched, the canonical form kept
(20_memory.md R63, R66). The reading laws hold of every list, canonical or not. -/

namespace Sys2Proof.Machine

variable {p : Params}

/-! ### The list -/

theorem memGet_memCons_same (a : Nat) (v : Byte) (m : List Host.Cell)
    (h : memGet p m a = resetByte p a) : memGet p (memCons p a v m) a = v := by
  unfold memCons
  split
  · next hv => rw [h, hv]
  · simp [memGet]

theorem memGet_memCons_other {a a' : Nat} (v : Byte) (m : List Host.Cell) (hne : a' ≠ a)
    (h : a' < a → memGet p m a' = resetByte p a') : memGet p (memCons p a v m) a' = memGet p m a' := by
  unfold memCons
  split
  · rfl
  · by_cases hlt : a' < a
    · simp [memGet, hlt, h hlt]
    · simp [memGet, hlt, hne]

theorem memGet_dropWhile_le (m : List Host.Cell) {a a' : Nat} (h : a' ≤ a) :
    memGet p (m.dropWhile fun c => decide (c.1 ≤ a)) a' = resetByte p a' := by
  induction m with
  | nil => rfl
  | cons c m ih =>
    obtain ⟨b, w⟩ := c
    by_cases hb : b ≤ a
    · simpa [List.dropWhile, hb] using ih
    · have : a' < b := by omega
      simp [List.dropWhile, hb, memGet, this]

theorem memGet_dropWhile_gt (m : List Host.Cell) {a a' : Nat} (h : a < a') :
    memGet p (m.dropWhile fun c => decide (c.1 ≤ a)) a' = memGet p m a' := by
  induction m with
  | nil => rfl
  | cons c m ih =>
    obtain ⟨b, w⟩ := c
    by_cases hb : b ≤ a
    · have h1 : ¬ a' < b := by omega
      have h2 : a' ≠ b := by omega
      simp [List.dropWhile, hb, memGet, h1, h2, ih]
    · simp [List.dropWhile, hb]

/-- A read after a write to the same address gives the byte written. -/
theorem memGet_memSet_same (m : List Host.Cell) (a : Nat) (v : Byte) : memGet p (memSet p m a v) a = v := by
  induction m with
  | nil => exact memGet_memCons_same a v [] rfl
  | cons c m ih =>
    obtain ⟨b, w⟩ := c
    unfold memSet
    split
    · next hb =>
      have h1 : ¬ a < b := by omega
      have h2 : a ≠ b := by omega
      simp [memGet, h1, h2, ih]
    · exact memGet_memCons_same a v _ (memGet_dropWhile_le _ (Nat.le_refl a))

/-- A write leaves every other address alone. -/
theorem memGet_memSet_other (m : List Host.Cell) {a a' : Nat} (v : Byte) (hne : a' ≠ a) :
    memGet p (memSet p m a v) a' = memGet p m a' := by
  induction m with
  | nil => exact memGet_memCons_other v [] hne fun _ => rfl
  | cons c m ih =>
    obtain ⟨b, w⟩ := c
    unfold memSet
    split
    · simp [memGet, ih]
    · next hb =>
      rw [memGet_memCons_other v _ hne fun hlt => memGet_dropWhile_le _ (Nat.le_of_lt hlt)]
      by_cases hlt : a' < a
      · rw [memGet_dropWhile_le _ (Nat.le_of_lt hlt)]
        have : a' < b := by omega
        simp [memGet, this]
      · exact memGet_dropWhile_gt _ (by omega)

/-! ### The canonical form -/

theorem memWfFrom_cons {lo a : Nat} {v : Byte} {m : List Host.Cell} :
    memWfFrom p lo ((a, v) :: m) = true ↔ lo ≤ a ∧ a < 4096 ∧ v ≠ resetByte p a ∧ memWfFrom p (a + 1) m = true := by
  simp [memWfFrom, and_assoc]

theorem memWfFrom_mono {lo lo' : Nat} {m : List Host.Cell} (h : lo' ≤ lo) (hm : memWfFrom p lo m = true) :
    memWfFrom p lo' m = true := by
  cases m with
  | nil => rfl
  | cons c m =>
    obtain ⟨a, v⟩ := c
    rw [memWfFrom_cons] at hm ⊢
    exact ⟨by omega, hm.2⟩

theorem memWfFrom_dropWhile {lo a : Nat} {m : List Host.Cell} (hm : memWfFrom p lo m = true) :
    memWfFrom p (a + 1) (m.dropWhile fun c => decide (c.1 ≤ a)) = true := by
  induction m generalizing lo with
  | nil => rfl
  | cons c m ih =>
    obtain ⟨b, w⟩ := c
    by_cases hb : b ≤ a
    · simpa [List.dropWhile, hb] using ih (memWfFrom_cons.1 hm).2.2.2
    · have := memWfFrom_cons.1 hm
      simp only [List.dropWhile, hb, decide_false]
      exact memWfFrom_cons.2 ⟨by omega, this.2⟩

theorem memWfFrom_memCons {lo a : Nat} {v : Byte} {m : List Host.Cell} (hlo : lo ≤ a) (ha : a < 4096)
    (hm : memWfFrom p (a + 1) m = true) : memWfFrom p lo (memCons p a v m) = true := by
  unfold memCons
  split
  · exact memWfFrom_mono (by omega) hm
  · next hv => exact memWfFrom_cons.2 ⟨hlo, ha, hv, hm⟩

theorem memWfFrom_memSet {lo a : Nat} {v : Byte} {m : List Host.Cell} (hlo : lo ≤ a) (ha : a < 4096)
    (hm : memWfFrom p lo m = true) : memWfFrom p lo (memSet p m a v) = true := by
  induction m generalizing lo with
  | nil => exact memWfFrom_memCons hlo ha rfl
  | cons c m ih =>
    obtain ⟨b, w⟩ := c
    unfold memSet
    split
    · next hb =>
      have h := memWfFrom_cons.1 hm
      exact memWfFrom_cons.2 ⟨h.1, h.2.1, h.2.2.1, ih (by omega) h.2.2.2⟩
    · exact memWfFrom_memCons hlo ha (memWfFrom_dropWhile hm)

/-- Storing one byte keeps the canonical form. -/
theorem Memory.wf_memSet {m : List Host.Cell} {a : Nat} {v : Byte} (ha : a < 4096) (hm : Memory.wf p m = true) :
    Memory.wf p (memSet p m a v) = true :=
  memWfFrom_memSet (Nat.zero_le a) ha hm

/-- The memory after reset is canonical. -/
theorem Memory.wf_reset (p : Params) : Memory.wf p (State.resetWith p).mem = true := rfl

/-! ### The state -/

theorem State.memRead_memWrite (s : State) (a a' : Nat) (b : Byte) :
    (s.memWrite a b).memRead a' = if a' % 4096 = a % 4096 then b else s.memRead a' := by
  unfold State.memRead
  rw [State.mem_memWrite, State.params_memWrite]
  split
  · next h => rw [h, memGet_memSet_same]
  · next h => rw [memGet_memSet_other _ _ h]

/-- Reading memory depends on the memory and the parameters alone. -/
theorem State.memRead_congr {s t : State} (hp : t.params = s.params) (h : t.mem = s.mem) (a : Nat) :
    t.memRead a = s.memRead a := by
  simp [State.memRead, hp, h]

/-- Everything storing a list of bytes can do to memory: an address within the bytes stored reads its byte, every other
address reads as before. -/
theorem State.memRead_memWriteList (bs : List Byte) (hlen : bs.length ≤ 4096) (s : State) (a a' : Nat) :
    (s.memWriteList a bs).memRead a' =
      if h : (a' + 4096 - a % 4096) % 4096 < bs.length then bs[(a' + 4096 - a % 4096) % 4096] else s.memRead a' := by
  induction bs generalizing s a with
  | nil => simp [State.memWriteList]
  | cons b bs ih =>
    have hlen' : bs.length + 1 ≤ 4096 := by simpa using hlen
    rw [State.memWriteList, ih (by omega), State.memRead_memWrite]
    by_cases h0 : a' % 4096 = a % 4096
    · have e0 : (a' + 4096 - a % 4096) % 4096 = 0 := by omega
      have e1 : (a' + 4096 - (a + 1) % 4096) % 4096 = 4095 := by omega
      have : ¬ 4095 < bs.length := by omega
      simp [h0, e0, e1, this]
    · have e : (a' + 4096 - a % 4096) % 4096 = (a' + 4096 - (a + 1) % 4096) % 4096 + 1 := by omega
      simp only [h0, if_false, e, List.length_cons, Nat.add_lt_add_iff_right, List.getElem_cons_succ]

theorem State.wf_memWriteList (bs : List Byte) (s : State) (a : Nat) (h : Memory.wf s.params s.mem = true) :
    Memory.wf (s.memWriteList a bs).params (s.memWriteList a bs).mem = true := by
  induction bs generalizing s a with
  | nil => exact h
  | cons b bs ih => exact ih (s.memWrite a b) (a + 1) (Memory.wf_memSet (Nat.mod_lt _ (by omega)) h)

end Sys2Proof.Machine
end

