-- ==== Sys2Proof/Laws/Engine.lean ====
section
/-! SUPPORT. What a step can do: one inversion of `step`, and the fetch after a store (30_encoding.md R90,
20_memory.md R71). -/

namespace Sys2Proof.Machine

/-- Everything a step that answers a next state can be: a halted engine's, an instruction's, or the error entry of a word
outside the opcode map. -/
theorem step_cases {s t : State} (h : step s = .next t) :
    (s.halt = true ∧ t = s) ∨
    (s.halt = false ∧ ∃ i, decode s.fetch = .ok i ∧ exec i s = .next t) ∨
    (s.halt = false ∧ (∃ e, decode s.fetch = .error e) ∧ t = s.raise .unknownOpcode s.fetch) := by
  unfold step engineStep at h
  split at h
  · next hh => exact Or.inl ⟨hh, by simpa using h.symm⟩
  · next hh =>
    have hh : s.halt = false := by simpa using hh
    cases hd : decode s.fetch with
    | ok i =>
      rw [hd] at h
      exact Or.inr (Or.inl ⟨hh, i, rfl, h⟩)
    | error e =>
      rw [hd] at h
      exact Or.inr (Or.inr ⟨hh, ⟨e, rfl⟩, by simpa using h.symm⟩)

/-- The fetch depends on `PC`, memory and the parameters alone. -/
theorem State.fetch_congr {s t : State} (hpc : t.pc = s.pc) (hp : t.params = s.params) (hmem : t.mem = s.mem) :
    t.fetch = s.fetch := by
  simp [State.fetch, State.memRead, hpc, hp, hmem]

end Sys2Proof.Machine
end

