-- ==== Sys2Proof/Laws/Keys.lean ====
section
/-! SUPPORT. The keys: which bit is the lowest, what setting a key does to `KEYS` (45_timer_key.md R181,
60_exceptions.md R213). -/

namespace Sys2Proof.Machine

/-- The answer of `lowestSet` is a set bit with no set bit below it. -/
theorem lowestSet_eq_some {w : Word} {k : Key} :
    lowestSet w = some k ↔ w.getLsbD k.val = true ∧ ∀ j : Key, j < k → w.getLsbD j.val = false := by
  unfold lowestSet
  rw [List.find?_eq_some_iff_getElem]
  simp only [List.getElem_finRange, List.length_finRange]
  constructor
  · rintro ⟨hk, n, hn, rfl, hl⟩
    refine ⟨hk, fun j hj => ?_⟩
    have := hl j.val (by simpa [Fin.lt_def] using hj)
    simpa using this
  · rintro ⟨hk, hl⟩
    refine ⟨hk, k.val, k.isLt, by simp, fun j hj => ?_⟩
    have := hl ⟨j, by omega⟩ (by simpa [Fin.lt_def] using hj)
    simpa using this

/-- There is no answer exactly for the word 0. -/
theorem lowestSet_eq_none {w : Word} : lowestSet w = none ↔ w = 0#16 := by
  unfold lowestSet
  rw [List.find?_eq_none]
  constructor
  · intro h
    apply BitVec.eq_of_getLsbD_eq
    intro k hk
    have := h ⟨k, hk⟩ (List.mem_finRange _)
    simpa using this
  · rintro rfl k -
    simp

/-- A key reads as set after `SetKey`, every other key as before. -/
theorem State.keyDown_setKey (s : State) (k : Key) (b : Bool) (j : Key) :
    (s.setKey k b).keyDown j.val = if j = k then b else s.keyDown j.val := by
  have hk : k.val < 16 := k.isLt
  have hj : j.val < 16 := j.isLt
  have hone : ∀ m : Nat, (1#16 : Word).getLsbD m = decide (m = 0) := by
    intro m
    rw [BitVec.getLsbD_one]
    cases m <;> simp
  cases b
  · by_cases e : j = k
    · subst e
      simp [State.keyDown, State.setKey]
    · have : j.val ≠ k.val := fun h => e (Fin.ext h)
      simp only [State.keyDown, State.setKey, if_false, Bool.false_eq_true, BitVec.getLsbD_and, BitVec.getLsbD_not,
        BitVec.getLsbD_shiftLeft, hone, hj, decide_true, Bool.true_and, e]
      by_cases hlt : j.val < k.val
      · simp [hlt]
      · have : ¬ j.val - k.val = 0 := by omega
        simp [this]
  · by_cases e : j = k
    · subst e
      simp [State.keyDown, State.setKey]
    · have : j.val ≠ k.val := fun h => e (Fin.ext h)
      simp only [State.keyDown, State.setKey, if_true, BitVec.getLsbD_or, BitVec.getLsbD_shiftLeft, hone, hj,
        decide_true, Bool.true_and, e, if_false]
      by_cases hlt : j.val < k.val
      · simp [hlt]
      · have : ¬ j.val - k.val = 0 := by omega
        simp [this]

end Sys2Proof.Machine
end

