-- ==== Sys2Proof/Laws/PerInstr.lean ====
section
/-! SUPPORT. Per-instruction lemmas, one per constructor of `Instr`: the word of every instruction selects its own row of
the opcode map (30_encoding.md R95). -/

/-- The word of `i` matches the row of `i`. -/
def Sys2Proof.Laws.OpcodeRow.Statement (i : Sys2Proof.Instr) : Prop :=
  Sys2Proof.encode i &&& i.rowMask = i.rowMatch

namespace Sys2Proof.Laws.OpcodeRow

theorem cls : Statement .cls := rfl
theorem ret : Statement .ret := rfl
theorem sys (nnn : BitVec 12) : Statement (.sys nnn) := encNNN_and_family _ nnn
theorem jp (nnn : BitVec 12) : Statement (.jp nnn) := encNNN_and_family _ nnn
theorem call (nnn : BitVec 12) : Statement (.call nnn) := encNNN_and_family _ nnn
theorem seImm (x : Reg) (nn : Byte) : Statement (.seImm x nn) := encXNN_and_family _ x nn
theorem sneImm (x : Reg) (nn : Byte) : Statement (.sneImm x nn) := encXNN_and_family _ x nn
theorem seReg (x y : Reg) : Statement (.seReg x y) := encXYN_and_sub _ x y _
theorem ldImm (x : Reg) (nn : Byte) : Statement (.ldImm x nn) := encXNN_and_family _ x nn
theorem addImm (x : Reg) (nn : Byte) : Statement (.addImm x nn) := encXNN_and_family _ x nn
theorem ldReg (x y : Reg) : Statement (.ldReg x y) := encXYN_and_sub _ x y _
theorem orReg (x y : Reg) : Statement (.orReg x y) := encXYN_and_sub _ x y _
theorem andReg (x y : Reg) : Statement (.andReg x y) := encXYN_and_sub _ x y _
theorem xorReg (x y : Reg) : Statement (.xorReg x y) := encXYN_and_sub _ x y _
theorem addReg (x y : Reg) : Statement (.addReg x y) := encXYN_and_sub _ x y _
theorem subReg (x y : Reg) : Statement (.subReg x y) := encXYN_and_sub _ x y _
theorem shr (x y : Reg) : Statement (.shr x y) := encXYN_and_sub _ x y _
theorem subnReg (x y : Reg) : Statement (.subnReg x y) := encXYN_and_sub _ x y _
theorem shl (x y : Reg) : Statement (.shl x y) := encXYN_and_sub _ x y _
theorem sneReg (x y : Reg) : Statement (.sneReg x y) := encXYN_and_sub _ x y _
theorem ldI (nnn : BitVec 12) : Statement (.ldI nnn) := encNNN_and_family _ nnn
theorem jpV0 (nnn : BitVec 12) : Statement (.jpV0 nnn) := encNNN_and_family _ nnn
theorem rnd (x : Reg) (nn : Byte) : Statement (.rnd x nn) := encXNN_and_family _ x nn
theorem drw (x y : Reg) (n : BitVec 4) : Statement (.drw x y n) := encXYN_and_family _ x y n
theorem skp (x : Reg) : Statement (.skp x) := encXNN_and_sub _ x _
theorem sknp (x : Reg) : Statement (.sknp x) := encXNN_and_sub _ x _
theorem ldVxDT (x : Reg) : Statement (.ldVxDT x) := encXNN_and_sub _ x _
theorem ldVxK (x : Reg) : Statement (.ldVxK x) := encXNN_and_sub _ x _
theorem ldDTVx (x : Reg) : Statement (.ldDTVx x) := encXNN_and_sub _ x _
theorem ldSTVx (x : Reg) : Statement (.ldSTVx x) := encXNN_and_sub _ x _
theorem addI (x : Reg) : Statement (.addI x) := encXNN_and_sub _ x _
theorem ldF (x : Reg) : Statement (.ldF x) := encXNN_and_sub _ x _
theorem ldB (x : Reg) : Statement (.ldB x) := encXNN_and_sub _ x _
theorem storeRegs (x : Reg) : Statement (.storeRegs x) := encXNN_and_sub _ x _
theorem loadRegs (x : Reg) : Statement (.loadRegs x) := encXNN_and_sub _ x _

end Sys2Proof.Laws.OpcodeRow
end

