-- ==== Sys2Proof/Tests/Slice0.lean ====
section
/-! SUPPORT. Tests: the well-formedness smoke, words written out from the encodings of 30_encoding.md, single steps with
the expected results of 95_test_vectors.md (each names its vector), and a witness for the hypotheses of each obligation,
at the boundary values of its clauses. -/

namespace Sys2Proof.Machine

/-! ### Helpers -/

/-- The state after reset with the word `w` at `pc` and the registers listed. -/
def placedAt (pc : Word) (w : Nat) (regs : List (Reg × Byte)) : State :=
  regs.foldl (fun s p => s.setReg p.1 p.2) (({ State.reset with pc := pc } : State).withFetchWord 16 w)

/-- The same at 0x0200. -/
def start (w : Nat) (regs : List (Reg × Byte)) : State := placedAt 0x0200#16 w regs

/-- What `f` reads of the state after one step. -/
def after {α : Type} (s : State) (f : State → α) : Option α :=
  match step s with
  | .next t => some (f t)
  | .fault _ => none
  | .refused _ => none

/-- The error a step recorded, and the pc it left. -/
def errorAndPc (s : State) : Bool × Nat × Word × Word := (s.halt, s.err.code, s.errOpcode, s.pc)

/-- `V0` and `VF`. -/
def v0vf (s : State) : Byte × Byte := (s.reg 0, s.reg vf)

/-! ### Well-formedness: the one ill-formed shape, 0x00E0 and 0x00EE under the row 0NNN -/

theorem test_wellFormed_refuses_sys_0E0 : (Instr.sys 0x0E0#12).wellFormed = false := by decide
theorem test_wellFormed_refuses_sys_0EE : (Instr.sys 0x0EE#12).wellFormed = false := by decide
theorem test_wellFormed_admits_sys_0EF : (Instr.sys 0x0EF#12).wellFormed = true := by decide

/-! ### Decoding: words written out bit by bit from 30_encoding.md R92 and R95 -/

theorem test_decode_cls : decode 0b0000000011100000#16 = .ok .cls := by decide
theorem test_decode_ret : decode 0b0000000011101110#16 = .ok .ret := by decide
theorem test_decode_sys : decode 0b0000000011101111#16 = .ok (.sys 0x0EF#12) := by decide
theorem test_decode_jp : decode 0b0001101010111100#16 = .ok (.jp 0xABC#12) := by decide
theorem test_decode_call : decode 0b0010000100100011#16 = .ok (.call 0x123#12) := by decide
theorem test_decode_seImm : decode 0b0011000111111110#16 = .ok (.seImm 1 0xFE#8) := by decide
theorem test_decode_sneImm : decode 0b0100001000000001#16 = .ok (.sneImm 2 0x01#8) := by decide
theorem test_decode_seReg : decode 0b0101001101000000#16 = .ok (.seReg 3 4) := by decide
theorem test_decode_ldImm : decode 0b0110010110000001#16 = .ok (.ldImm 5 0x81#8) := by decide
theorem test_decode_addImm : decode 0b0111011001111111#16 = .ok (.addImm 6 0x7F#8) := by decide
theorem test_decode_ldReg : decode 0b1000000100100000#16 = .ok (.ldReg 1 2) := by decide
theorem test_decode_orReg : decode 0b1000000100100001#16 = .ok (.orReg 1 2) := by decide
theorem test_decode_andReg : decode 0b1000000100100010#16 = .ok (.andReg 1 2) := by decide
theorem test_decode_xorReg : decode 0b1000000100100011#16 = .ok (.xorReg 1 2) := by decide
theorem test_decode_addReg : decode 0b1000000100100100#16 = .ok (.addReg 1 2) := by decide
theorem test_decode_subReg : decode 0b1000000100100101#16 = .ok (.subReg 1 2) := by decide
theorem test_decode_shr : decode 0b1000000100100110#16 = .ok (.shr 1 2) := by decide
theorem test_decode_subnReg : decode 0b1000000100100111#16 = .ok (.subnReg 1 2) := by decide
theorem test_decode_shl : decode 0b1000000100101110#16 = .ok (.shl 1 2) := by decide
theorem test_decode_sneReg : decode 0b1001111100010000#16 = .ok (.sneReg 15 1) := by decide
theorem test_decode_ldI : decode 0b1010111111111110#16 = .ok (.ldI 0xFFE#12) := by decide
theorem test_decode_jpV0 : decode 0b1011000000010010#16 = .ok (.jpV0 0x012#12) := by decide
theorem test_decode_rnd : decode 0b1100011100001111#16 = .ok (.rnd 7 0x0F#8) := by decide
theorem test_decode_drw : decode 0b1101100010011010#16 = .ok (.drw 8 9 0xA#4) := by decide
theorem test_decode_skp : decode 0b1110101010011110#16 = .ok (.skp 10) := by decide
theorem test_decode_sknp : decode 0b1110101010100001#16 = .ok (.sknp 10) := by decide
theorem test_decode_ldVxDT : decode 0b1111101100000111#16 = .ok (.ldVxDT 11) := by decide
theorem test_decode_ldVxK : decode 0b1111101100001010#16 = .ok (.ldVxK 11) := by decide
theorem test_decode_ldDTVx : decode 0b1111101100010101#16 = .ok (.ldDTVx 11) := by decide
theorem test_decode_ldSTVx : decode 0b1111101100011000#16 = .ok (.ldSTVx 11) := by decide
theorem test_decode_addI : decode 0b1111101100011110#16 = .ok (.addI 11) := by decide
theorem test_decode_ldF : decode 0b1111101100101001#16 = .ok (.ldF 11) := by decide
theorem test_decode_ldB : decode 0b1111101100110011#16 = .ok (.ldB 11) := by decide
theorem test_decode_storeRegs : decode 0b1111101101010101#16 = .ok (.storeRegs 11) := by decide
theorem test_decode_loadRegs : decode 0b1111101101100101#16 = .ok (.loadRegs 11) := by decide
/-- Vector E5's illegal words, among them three of extensions. -/
theorem test_decode_illegal :
    decode 0x5001#16 = .error (.unknownOpcode 0x5001#16) ∧ decode 0x9001#16 = .error (.unknownOpcode 0x9001#16) ∧
    decode 0xE000#16 = .error (.unknownOpcode 0xE000#16) ∧ decode 0xF075#16 = .error (.unknownOpcode 0xF075#16) ∧
    decode 0xFFFF#16 = .error (.unknownOpcode 0xFFFF#16) := by decide
/-- The high byte comes first, and what follows the word is left (20_memory.md R64). -/
theorem test_decodeBytes : decodeBytes [0x6A, 0x9C, 0x12] = .ok (.ldImm 10 0x9C#8, [0x12]) := by decide
theorem test_decodeBytes_truncated : decodeBytes [0x6A] = .error .truncated := by decide
theorem test_decodeTableWord : decodeTableWord 16 0x8AB7 = some (.subnReg 10 11) := by decide

/-! ### Control transfer -/

/-- F1. -/
theorem test_ret : after { start 0x00EE [] with sp := 1, stack := Vector.replicate 16 0x0206#16 }
    (fun t => (t.pc, t.sp.val)) = some (0x0206#16, 0) := by decide
/-- F2, S9. -/
theorem test_ret_underflow : after (placedAt 0x0300#16 0x00EE []) errorAndPc = some (true, 2, 0x00EE#16, 0x0300#16) := by decide
/-- F4. -/
theorem test_sys : after (start 0x0123 []) errorAndPc = some (true, 3, 0x0123#16, 0x0200#16) := by decide
/-- E4: with the zero fill of log entry 2, nothing loaded halts at once. -/
theorem test_sys_zero_fill : after State.reset errorAndPc = some (true, 3, 0x0000#16, 0x0200#16) := by decide
/-- F6. -/
theorem test_jp_odd : after (start 0x1FFF []) (·.pc) = some 0x0FFF#16 := by decide
/-- F9. -/
theorem test_call_overflow : after { placedAt 0x0250#16 0x2300 [] with sp := 16 } errorAndPc =
    some (true, 1, 0x2300#16, 0x0250#16) := by decide
/-- F10. -/
theorem test_call_top : after (placedAt 0x0FFE#16 0x2ABC []) (fun t => (t.stack[0], t.sp.val, t.pc)) =
    some (0x1000#16, 1, 0x0ABC#16) := by decide
/-- F12. -/
theorem test_jpV0 : after (start 0xBFFF [(0, 0xFF)]) (·.pc) = some 0x10FE#16 := by decide
/-- F13: `V0`, not `V1`. -/
theorem test_jpV0_register : after (start 0xB123 [(0, 0xFF), (1, 0x55)]) (·.pc) = some 0x0222#16 := by decide

/-! ### Skips -/

/-- K1. -/
theorem test_seImm : after (placedAt 0x0208#16 0x3000 []) (·.pc) = some 0x020C#16 := by decide
/-- K18: the skip wraps at 65536. -/
theorem test_seImm_wraps : after (placedAt 0xFFFC#16 0x3000 []) (·.pc) = some 0x0000#16 := by decide
/-- K4. -/
theorem test_sneImm : after (start 0x4311 [(3, 0x10)]) (·.pc) = some 0x0204#16 := by decide
/-- K7. -/
theorem test_seReg : after (start 0x5120 [(1, 0x7F), (2, 0x7E)]) (·.pc) = some 0x0202#16 := by decide
/-- K8. -/
theorem test_seReg_low_nibble : after (start 0x5121 []) errorAndPc = some (true, 3, 0x5121#16, 0x0200#16) := by decide
/-- K9. -/
theorem test_sneReg : after (start 0x9120 [(1, 1), (2, 2)]) (·.pc) = some 0x0204#16 := by decide
/-- K13: the low nibble selects. -/
theorem test_skp : after { start 0xE09E [(0, 0x1A)] with keys := 0x0400#16 } (·.pc) = some 0x0204#16 := by decide
/-- K16. -/
theorem test_sknp : after { start 0xE0A1 [(0, 0x05)] with keys := 0x0020#16 } (·.pc) = some 0x0202#16 := by decide

/-! ### Loads, arithmetic, logic, shifts, random -/

/-- A2. -/
theorem test_ldImm : after (start 0x6FAB []) (·.reg vf) = some 0xAB#8 := by decide
/-- A4: no carry flag. -/
theorem test_addImm : after (start 0x7001 [(0, 0xFF), (15, 0x07)]) v0vf = some (0x00#8, 0x07#8) := by decide
/-- A6. -/
theorem test_ldReg : after (start 0x8010 [(1, 0x33)]) (·.reg 0) = some 0x33#8 := by decide
/-- A7: the flag is not reset. -/
theorem test_orReg : after (start 0x8011 [(0, 0xF0), (1, 0x0F), (15, 9)]) v0vf = some (0xFF#8, 0x09#8) := by decide
/-- A8. -/
theorem test_andReg : after (start 0x8012 [(0, 0xF3), (1, 0x3F)]) (·.reg 0) = some 0x33#8 := by decide
/-- A9. -/
theorem test_xorReg : after (start 0x8013 [(0, 0xFF), (1, 0x0F)]) (·.reg 0) = some 0xF0#8 := by decide
/-- S4, A11. -/
theorem test_addReg : after (start 0x8014 [(0, 0xFF), (1, 0x01)]) v0vf = some (0x00#8, 0x01#8) := by decide
/-- A16: source and destination are the flag register. -/
theorem test_addReg_flag : after (start 0x8FF4 [(15, 0x90)]) (·.reg vf) = some 0x01#8 := by decide
/-- S5, A18. -/
theorem test_subReg : after (start 0x8015 [(0, 3), (1, 5)]) v0vf = some (0xFE#8, 0x00#8) := by decide
/-- A19: equal operands do not borrow. -/
theorem test_subReg_equal : after (start 0x8015 [(0, 7), (1, 7)]) v0vf = some (0x00#8, 0x01#8) := by decide
/-- A24: `Y` is ignored. -/
theorem test_shr : after (start 0x8016 [(0, 0x80), (1, 0xFF)]) v0vf = some (0x40#8, 0x00#8) := by decide
/-- A26: the shifted value survives. -/
theorem test_shr_flag : after (start 0x8F16 [(15, 0x05)]) (·.reg vf) = some 0x02#8 := by decide
/-- A27. -/
theorem test_subnReg : after (start 0x8017 [(0, 5), (1, 3)]) v0vf = some (0xFE#8, 0x00#8) := by decide
/-- A29: the flag survives. -/
theorem test_subnReg_flag : after (start 0x8F17 [(15, 3), (1, 5)]) (·.reg vf) = some 0x01#8 := by decide
/-- A30. -/
theorem test_shl : after (start 0x801E [(0, 0xC1)]) v0vf = some (0x82#8, 0x01#8) := by decide
/-- A32: the shifted value survives. -/
theorem test_shl_flag : after (start 0x8F1E [(15, 0x81)]) (·.reg vf) = some 0x02#8 := by decide
/-- A37, for every byte `rnd`. -/
theorem test_rnd_mask_zero : after (start 0xC000 []) (·.reg 0) = some (Config.randomByte 0 &&& 0x00#8) := rfl

/-! ### Index register and memory -/

/-- M2. -/
theorem test_ldI : after (start 0xAFFF []) (·.i) = some 0x0FFF#16 := by decide
/-- M3: beyond 12 bits, no flag. -/
theorem test_addI : after { start 0xF01E [(0, 2), (15, 7)] with i := 0x0FFF#16 } (fun t => (t.i, t.reg vf)) =
    some (0x1001#16, 0x07#8) := by decide
/-- M4. -/
theorem test_addI_wraps : after { start 0xF01E [(0, 2)] with i := 0xFFFF#16 } (·.i) = some 0x0001#16 := by decide
/-- M6. -/
theorem test_ldF : after (start 0xF029 [(0, 0xFF)]) (·.i) = some 0x04FB#16 := by decide
/-- S7, M8. -/
theorem test_ldB : after { start 0xF033 [(0, 156)] with i := 0x0300#16 }
    (fun t => (t.memRead 0x300, t.memRead 0x301, t.memRead 0x302)) = some (1#8, 5#8, 6#8) := by decide
/-- M12: the third digit wraps to address 0. -/
theorem test_ldB_wraps : after { start 0xF033 [(0, 109)] with i := 0x0FFE#16 }
    (fun t => (t.memRead 0xFFE, t.memRead 0xFFF, t.memRead 0x000, t.i)) = some (1#8, 0#8, 9#8, 0x0FFE#16) := by decide
/-- M14. -/
theorem test_storeRegs : after { start 0xF155 [(0, 0xAA), (1, 0xBB)] with i := 0x0FFF#16 }
    (fun t => (t.memRead 0xFFF, t.memRead 0x000, t.i)) = some (0xAA#8, 0xBB#8, 0x1001#16) := by decide
/-- M15: `I` wraps at 16 bits. -/
theorem test_storeRegs_wraps : after { start 0xF055 [(0, 0x11)] with i := 0xFFFF#16 }
    (fun t => (t.memRead 0xFFF, t.i)) = some (0x11#8, 0x0000#16) := by decide
/-- M18. -/
theorem test_loadRegs : after ({ start 0xF165 [] with i := 0x0FFF#16 }.memWriteList 0xFFF [0x77, 0x88])
    (fun t => (t.reg 0, t.reg 1, t.reg 2, t.i)) = some (0x77#8, 0x88#8, 0x00#8, 0x1001#16) := by decide

/-! ### Display -/

/-- D10. -/
theorem test_cls : after { start 0x00E0 [] with disp := Vector.replicate 32 1#64 } (fun t => (t.cell 63 0, t.drawFlag)) =
    some (false, true) := by decide
/-- D2: columns 64 to 67 are clipped, column 0 stays off. -/
theorem test_drw_clips : after ({ start 0xD011 [(0, 60)] with i := 0x0300#16 }.memWrite 0x300 0xFF#8)
    (fun t => (t.disp[0], t.reg vf)) = some (0xF#64, 0x00#8) := by decide
/-- D3: the start cell wraps to (4, 1). -/
theorem test_drw_wraps_start : after ({ start 0xD011 [(0, 68), (1, 33)] with i := 0x0300#16 }.memWrite 0x300 0x80#8)
    (fun t => (t.cell 4 1, t.cell 5 1, t.cell 4 0)) = some (true, false, false) := by decide

/-! ### Timers, keys, errors, load -/

/-- T1. -/
theorem test_ldVxDT : after { start 0xF007 [] with dt := 7#8 } (fun t => (t.reg 0, t.dt)) = some (7#8, 7#8) := by decide
/-- T2. -/
theorem test_ldDTVx : after (start 0xF015 [(0, 10)]) (fun t => (t.dt, t.st)) = some (10#8, 0#8) := by decide
/-- T3. -/
theorem test_ldSTVx : after (start 0xF018 [(0, 2)]) (fun t => (t.st, t.sound)) = some (2#8, true) := by decide
/-- T5. -/
theorem test_ldVxK_waits : after (start 0xF00A []) (fun t => (t.wait, t.keyPrev, t.pc, stepStatus t)) =
    some (true, 0x0000#16, 0x0200#16, .waitingForKey) := by decide
/-- T6, step 4: the lowest of three fresh keys. -/
theorem test_ldVxK_lowest : after { start 0xF30A [] with wait := true, keys := 0x0284#16 }
    (fun t => (t.reg 3, t.wait, t.keyPrev, t.pc)) = some (2#8, false, 0x0284#16, 0x0202#16) := by decide
/-- T4, the first tick and the floor. -/
theorem test_tick : ({ State.reset with dt := 2#8, st := 1#8 } : State).tick.tick.tick.dt = 0#8 ∧
    ({ State.reset with dt := 2#8, st := 1#8 } : State).tick.sound = false := by decide
/-- T9. -/
theorem test_unknown : after (start 0xF0FF []) errorAndPc = some (true, 3, 0xF0FF#16, 0x0200#16) := by decide
/-- E1, step 4: a halted engine stays as it is. -/
theorem test_halted : step { State.reset with halt := true, err := .unknownOpcode } =
    .next { State.reset with halt := true, err := .unknownOpcode } := rfl
/-- P1's first word, placed by `Load`. -/
theorem test_load : ((State.reset.load [0x60, 0x05]).map fun t => (t.fetch, t.memRead 0x202)) =
    some (0x6005#16, 0x00#8) := by decide
/-- S8: 3585 bytes are too many. -/
theorem test_load_too_large : State.reset.load (List.replicate 3585 0x00#8) = none := by
  rw [State.load, if_pos (by rw [List.length_replicate]; decide)]
/-- The glyph of F, the last of the font table (20_memory.md R73). -/
theorem test_font_last : State.reset.memRead 75 = 0xF0#8 ∧ State.reset.memRead 79 = 0x80#8 ∧ State.reset.memRead 80 = 0x00#8 := by decide

/-- Another `FONT` and another `RESET_MEM_FILL` are what memory reads as after `Reset()` (10_state.md R39). -/
theorem test_reset_other_parameters :
    let s := ({ start 0xF30A [] with params := ⟨Vector.replicate 80 0x11#8, [(0x300, 0xAB#8)]⟩ } : State).doReset
    s.memRead 79 = 0x11#8 ∧ s.memRead 0x300 = 0xAB#8 ∧ s.memRead 0x301 = 0x00#8 := by decide

/-! ### Witnesses: the hypotheses of each obligation can be met -/

/-- A machine waiting at an `FX0A`. -/
def waiting : State := { start 0xF30A [] with wait := true }

/-- A machine halted by 0x0000. -/
def halted : State := { State.reset with halt := true, err := .unknownOpcode }

theorem witness_inv_reset : State.reset.Inv :=
  ⟨by decide, by decide, (fun h => absurd h (by decide)), rfl, by decide⟩
theorem witness_inv_waiting : waiting.Inv :=
  ⟨by decide, by decide, (fun _ => ⟨by decide, 3, by decide⟩), rfl, by decide⟩
theorem witness_inv_halted : halted.Inv :=
  ⟨by decide, by decide, (fun h => absurd h (by decide)), (fun i h => by cases h; rfl), by decide⟩
theorem witness_StepKeepsTheInvariant : ∃ s t : State, s.Inv ∧ s.wait = true ∧ step s = .next t :=
  ⟨waiting, waiting, witness_inv_waiting, rfl, rfl⟩
theorem witness_EveryOperationKeepsTheInvariant :
    ∃ sys sys' : System, ∃ ans, sys.Inv ∧ sys.phase = .fresh ∧ sys.apply (.load [0x12#8]) = some (sys', ans) ∧
      sys.run [.load [0x12#8]] = some sys' :=
  ⟨⟨State.reset, .fresh⟩, ⟨State.reset.memWriteList 0x200 [0x12#8], .running⟩, .done,
    (fun _ => ⟨witness_inv_reset, fun _ => rfl⟩), rfl, by decide, by decide⟩
theorem witness_StepRunsTheFetchedInstruction_next :
    (placedAt 0xFFFF#16 0x1200 []).halt = false ∧
    decode ((placedAt 0xFFFF#16 0x1200 []).memRead 0xFFFF ++ (placedAt 0xFFFF#16 0x1200 []).memRead 0x10000) =
      .ok (.jp 0x200#12) := by decide
theorem witness_StepRunsTheFetchedInstruction_error :
    decode ((start 0x5121 []).memRead 0x200 ++ (start 0x5121 []).memRead 0x201) = .error (.unknownOpcode 0x5121#16) := by
  decide
theorem witness_StepAnswersItsStatus : ∃ (sys : System) (t : State), sys.phase ≠ .unbooted ∧ step sys.core = .next t ∧
    t.wait = true := ⟨⟨waiting, .running⟩, waiting, by decide, rfl, rfl⟩
theorem witness_HaltedEngine : ∃ sys : System, sys.phase = .running ∧ sys.core.halt = true :=
  ⟨⟨halted, .running⟩, rfl, rfl⟩
/-- The two fetch addresses of an odd `PC` at the top of memory, one stored to through an address above 4095. -/
theorem witness_StoreIsSeenByTheNextFetch :
    (0x0FFF % 4096 = (0xFFFF#16).toNat % 4096 ∧ 0x0FFF % 4096 ≠ ((0xFFFF#16).toNat + 1) % 4096) ∧
    (0x1000 % 4096 ≠ (0x0FFF#16).toNat % 4096 ∧ 0x1000 % 4096 = ((0x0FFF#16).toNat + 1) % 4096) ∧
    (0x0300 % 4096 ≠ (0x0FFF#16).toNat % 4096 ∧ 0x0300 % 4096 ≠ ((0x0FFF#16).toNat + 1) % 4096) := by decide
theorem witness_PlacedWord : 65535 < 65536 ∧ decodeTableWord 16 0xFF65 = some (.loadRegs 15) ∧
    decodeTableWord 16 0x0000 = some (.sys 0x000#12) := by decide
theorem witness_DecodeOfEncode : (Instr.sys 0x0EF#12).wellFormed = true ∧ (Instr.drw 15 15 0xF#4).wellFormed = true := by
  decide
theorem witness_EncodeOfDecode : decode 0x0000#16 = .ok (.sys 0x000#12) ∧ decode 0x8FFE#16 = .ok (.shl 15 15) := by decide
theorem witness_IllegalWordsAreExactlyTheTable :
    illegalWord 0x00EE#16 = false ∧ illegalWord 0x00EF#16 = true ∧ illegalWord 0xFF65#16 = false ∧
    decode 0xFFFF#16 = .error (.unknownOpcode 0xFFFF#16) := by decide
theorem witness_IllegalWordRaises :
    (start 0x0000 []).halt = false ∧ illegalWord (start 0x0000 []).fetch = true ∧
    illegalWord (start 0xFFFF []).fetch = true := by decide
theorem witness_Ret : ∃ s t u : State, s.sp.val = 0 ∧ t.sp.val = 1 ∧ 0 < u.sp.val ∧ u.sp.val = 16 :=
  ⟨State.reset, { State.reset with sp := 1 }, { State.reset with sp := 16 }, by decide⟩
theorem witness_Sys : (0x000#12 ≠ 0x0E0#12 ∧ 0x000#12 ≠ 0x0EE#12) ∧ (0x0E1#12 ≠ 0x0E0#12 ∧ 0x0E1#12 ≠ 0x0EE#12) ∧
    (0xFFF#12 ≠ 0x0E0#12 ∧ 0xFFF#12 ≠ 0x0EE#12) := by decide
theorem witness_Call : ∃ s t : State, s.sp.val = 16 ∧ t.sp.val = 15 ∧ t.sp.val < 16 :=
  ⟨{ State.reset with sp := 16 }, { State.reset with sp := 15 }, by decide⟩
theorem witness_ReturnUndoesCall : ∃ (s : State) (k : Fin 16), s.sp.val < 16 ∧ s.sp.val = 15 ∧ k.val ≠ s.sp.val :=
  ⟨{ State.reset with sp := 15 }, 14, by decide⟩
theorem witness_SkipOnRegisterComparison :
    (0x1#4 ≠ 0x0#4 ∧ (start 0x5121 []).halt = false ∧ (start 0x5121 []).fetch = 0x5#4 ++ regBits 1 ++ regBits 2 ++ 0x1#4) ∧
    (0xF#4 ≠ 0x0#4 ∧ (start 0x912F []).halt = false ∧ (start 0x912F []).fetch = 0x9#4 ++ regBits 1 ++ regBits 2 ++ 0xF#4) := by
  decide
theorem witness_RandomByteIsMasked : (0x0F#8).getLsbD 4 = false ∧ (0x00#8).getLsbD 0 = false := by decide
/-- The addresses next to the three stored bytes at the top of memory. -/
theorem witness_DecimalDigitsAreStored :
    let s : State := { State.reset with i := 0x0FFE#16 }
    (∀ k, k < 3 → 0x0001 % 4096 ≠ s.indexed k % 4096) ∧ (∀ k, k < 3 → 0x0FFD % 4096 ≠ s.indexed k % 4096) := by decide
/-- The addresses next to sixteen stored bytes that wrap. -/
theorem witness_StoreRegisters :
    let s : State := { State.reset with i := 0xFFFF#16 }
    (15 : Reg) ≤ 15 ∧ (∀ r : Reg, r ≤ 15 → 0x000F % 4096 ≠ s.indexed r.val % 4096) ∧
    (∀ r : Reg, r ≤ 15 → 0x0FFE % 4096 ≠ s.indexed r.val % 4096) := by decide
theorem witness_LoadAfterStore : ∃ s t w : State, exec (.storeRegs 1) s = .next t ∧
    (∀ a, w.memRead a = t.memRead a) ∧ w.i = s.i ∧ w ≠ t :=
  ⟨{ State.reset with i := 0x0300#16 }, { State.reset with i := 0x0302#16, pc := 0x0202#16 },
    { State.reset with i := 0x0300#16 }, rfl, fun _ => rfl, rfl, by decide⟩
/-- A cell that flips on and, at the corner of the display, one that flips off. -/
theorem witness_DrawFlipsTheSpriteCells_hit :
    let s : State := { (start 0xD011 [(0, 63), (1, 31)]).memWrite 0 0x80#8 with disp := Vector.replicate 32 1#64 }
    s.spriteCell 0 1 0x1#4 63 31 ∧ s.cell 63 31 = true :=
  ⟨⟨0, 0, by decide⟩, by decide⟩
theorem witness_DrawFlipsTheSpriteCells_miss :
    ¬ ∃ cx cy, cx < 64 ∧ cy < 32 ∧ State.reset.spriteCell 0 1 0x0#4 cx cy ∧ State.reset.cell cx cy = true :=
  fun ⟨_, _, _, _, ⟨_, _, h, _⟩, _⟩ => Nat.not_lt_zero _ h
theorem witness_DrawingTwice : (0 : Reg) ≠ 15 ∧ (14 : Reg) ≠ 15 := by decide
theorem witness_HostOperations : ∃ sys : System, sys.phase ≠ .unbooted := ⟨⟨State.reset, .fresh⟩, by decide⟩
/-- Both ways to go on waiting, and a fresh press of the lowest and of the highest key. -/
theorem witness_KeyWait :
    State.reset.wait = false ∧ (waiting.wait = true ∧ ∀ k, ¬ waiting.freshPress k) ∧
    (waiting.setKey 0 true).freshPress 0 ∧
    ((waiting.setKey 15 true).freshPress 15 ∧ ∀ j, j < 15 → ¬ (waiting.setKey 15 true).freshPress j) := by
  unfold State.freshPress; decide
theorem witness_KeyPressEndsTheWait :
    (start 0xF30A []).halt = false ∧ decode (start 0xF30A []).fetch = .ok (.ldVxK 3) ∧ (start 0xF30A []).wait = false ∧
    (start 0xF30A []).keys.getLsbD 15 = false := by decide
theorem witness_WaitGoesOn : ∃ s t : State, s.halt = false ∧ decode s.fetch = .ok (.ldVxK 3) ∧ s.wait = false ∧
    step s = .next t := ⟨start 0xF30A [], waiting, by decide, by decide, by decide, rfl⟩
theorem witness_Load : ∃ big full : List Byte, big.length = 3585 ∧ full.length = 3584 :=
  ⟨List.replicate 3585 0x00#8, List.replicate 3584 0x00#8, List.length_replicate, List.length_replicate⟩
theorem witness_Load_addresses : (0x1FF < 4096 ∧ 0x1FF < 0x200) ∧ (0xFFF < 4096 ∧ 0x200 + 3583 ≤ 0xFFF) := by decide
/-- A `SetKey` before any `Load`, and a `Load` of nothing, each followed by a step and a tick. -/
theorem witness_BootOrder : (Op.step ≠ .reset) ∧ ∃ a b c d : System,
    (⟨State.reset, .fresh⟩ : System).apply (.setKey 0 true) = some (a, .done) ∧ a.run [.step, .tick] = some b ∧
    (⟨State.reset, .fresh⟩ : System).apply (.load []) = some (c, .done) ∧ c.run [.step, .tick] = some d ∧
    (∀ o ∈ [Op.step, .tick], o ≠ .reset) ∧ Answer.done ≠ .romTooLarge :=
  ⟨by decide, _, _, _, _, rfl, rfl, rfl, rfl, by decide, by decide⟩
/-- After a `Tick`, or a `ReadDisplay`, no image may be loaded (70_reset_and_hazards.md R242). -/
theorem test_load_order :
    ((⟨State.reset, .fresh⟩ : System).run [.tick, .load []]) = none ∧
    ((⟨State.reset, .fresh⟩ : System).run [.readDisplay, .load []]) = none := ⟨rfl, rfl⟩
/-- Each of the three errors and a step that does not halt. -/
theorem witness_StepHaltsExactly :
    (start 0x00EE []).halt = false ∧ after (start 0x00EE []) (·.err.code) = some 2 ∧
    after { start 0x2300 [] with sp := 16 } (·.err.code) = some 1 ∧ after (start 0x00E1 []) (·.err.code) = some 3 ∧
    after { start 0x2300 [] with sp := 15 } (·.halt) = some false := by decide
theorem witness_OtherInstructions : sequential (.loadRegs 15) = true ∧ sequential .cls = true := by decide
theorem witness_OnlyTheListed : ∃ t, exec (.addReg 0 1) (start 0x8014 [(0, 0xFF), (1, 1)]) = .next t ∧ t.reg 15 ≠ 0x00#8 :=
  ⟨((start 0x8014 [(0, 0xFF), (1, 1)]).resultThenFlag 0 0x00#8 0x01#8).advance, rfl, by decide⟩
/-- Two states that differ in the last, dead slot alone, with one live slot. -/
theorem witness_StackSlots : ∃ s s' t : State, SameButDeadSlots s s' ∧ s ≠ s' ∧ s.sp.val = 1 ∧ step s = .next t :=
  ⟨{ waiting with sp := 1 }, { waiting with sp := 1, stack := waiting.stack.set 15 0xABCD#16 }, { waiting with sp := 1 },
    ⟨rfl, by decide⟩, by decide, rfl, rfl⟩
theorem witness_HostRegisters : ∃ s s' t : State, SameToProgram s s' ∧ s ≠ s' ∧ exec (.ldVxK 3) s = .next t :=
  ⟨waiting, { waiting with halt := true, st := 9#8 }, waiting, rfl, by decide, rfl⟩
theorem witness_GoodEnd : (start 0x1200 []).GoodEnd := ⟨by decide, 0x200#12, by decide⟩

end Sys2Proof.Machine
end

section
/-! SUPPORT. What a step and each instruction can do to the state: the equations of the step, the two outcomes of RET, CALL
and LD Vx, K, and the write-sets of 10_state.md R38. -/

namespace Sys2Proof.Machine

/-! ### Registers after an operation that does not write them -/

@[simp] theorem State.reg_advance (s : State) (r : Reg) : s.advance.reg r = s.reg r := rfl
@[simp] theorem State.reg_jump (s : State) (w : Word) (r : Reg) : (s.jump w).reg r = s.reg r := rfl
@[simp] theorem State.reg_raise (s : State) (e : ErrCode) (w : Word) (r : Reg) : (s.raise e w).reg r = s.reg r := rfl
@[simp] theorem State.reg_setI (s : State) (w : Word) (r : Reg) : (s.setI w).reg r = s.reg r := rfl
@[simp] theorem State.reg_setDT (s : State) (b : Byte) (r : Reg) : (s.setDT b).reg r = s.reg r := rfl
@[simp] theorem State.reg_setST (s : State) (b : Byte) (r : Reg) : (s.setST b).reg r = s.reg r := rfl
@[simp] theorem State.reg_setDisplay (s : State) (d : Vector Row 32) (r : Reg) : (s.setDisplay d).reg r = s.reg r := rfl
@[simp] theorem State.reg_sampleKeys (s : State) (b : Bool) (r : Reg) : (s.sampleKeys b).reg r = s.reg r := rfl
@[simp] theorem State.reg_drawRandom (s : State) (r : Reg) : s.drawRandom.reg r = s.reg r := rfl
@[simp] theorem State.reg_memWriteList (s : State) (a : Nat) (bs : List Byte) (r : Reg) :
    (s.memWriteList a bs).reg r = s.reg r := State.reg_congr (State.v_memWriteList bs s a) r

/-! ### The step (30_encoding.md R90) -/

theorem step_of_halted {s : State} (hh : s.halt = true) : step s = .next s := by
  simp [step, engineStep, hh]

theorem step_of_decode_ok {i : Instr} {s : State} (hh : s.halt = false) (hd : decode s.fetch = .ok i) :
    step s = exec i s := by
  simp [step, engineStep, hh, hd]

theorem step_of_decode_error {e : DecodeError} {s : State} (hh : s.halt = false) (hd : decode s.fetch = .error e) :
    step s = .next (s.raise .unknownOpcode s.fetch) := by
  simp [step, engineStep, hh, hd]

/-! ### The instructions with two outcomes -/

/-- RET with an entry on the stack (40_flow.md R120). -/
theorem exec_ret_of_pos {s : State} (hs : 0 < s.sp.val) :
    exec .ret s = .next { s with sp := ⟨s.sp.val - 1, by omega⟩, pc := s.stack[s.sp.val - 1] } := by
  simp [exec, execRet, State.pop, hs, State.jump]

/-- RET with an empty stack (40_flow.md R120). -/
theorem exec_ret_of_empty {s : State} (hs : ¬ 0 < s.sp.val) :
    exec .ret s = .next (s.raise .stackUnderflow (encode .ret)) := by
  simp only [exec, execRet, State.pop, hs, dite_false]

/-- What RET can do. -/
theorem exec_ret_cases {s t : State} (h : exec .ret s = .next t) :
    (∃ hs : 0 < s.sp.val, t = { s with sp := ⟨s.sp.val - 1, by omega⟩, pc := s.stack[s.sp.val - 1] }) ∨
    t = s.raise .stackUnderflow (encode .ret) := by
  by_cases hs : 0 < s.sp.val
  · exact .inl ⟨hs, Host.Outcome.next.inj (h.symm.trans (exec_ret_of_pos hs))⟩
  · exact .inr (Host.Outcome.next.inj (h.symm.trans (exec_ret_of_empty hs)))

/-- CALL with room on the stack (40_flow.md R123). -/
theorem exec_call_of_lt {s : State} (n : BitVec 12) (hs : s.sp.val < 16) :
    exec (.call n) s = .next { s with stack := s.stack.set s.sp.val s.npc, sp := ⟨s.sp.val + 1, by omega⟩,
                                      pc := n.setWidth 16 } := by
  simp [exec, execCall, State.push, hs, State.jump]

/-- CALL with a full stack (40_flow.md R123). -/
theorem exec_call_of_full {s : State} (n : BitVec 12) (hs : ¬ s.sp.val < 16) :
    exec (.call n) s = .next (s.raise .stackOverflow (encode (.call n))) := by
  simp only [exec, execCall, State.push, hs, dite_false]

/-- What CALL can do. -/
theorem exec_call_cases {s t : State} {n : BitVec 12} (h : exec (.call n) s = .next t) :
    (∃ hs : s.sp.val < 16, t = { s with stack := s.stack.set s.sp.val s.npc, sp := ⟨s.sp.val + 1, by omega⟩,
                                        pc := n.setWidth 16 }) ∨
    t = s.raise .stackOverflow (encode (.call n)) := by
  by_cases hs : s.sp.val < 16
  · exact .inl ⟨hs, Host.Outcome.next.inj (h.symm.trans (exec_call_of_lt n hs))⟩
  · exact .inr (Host.Outcome.next.inj (h.symm.trans (exec_call_of_full n hs)))

/-- The key that ends the wait of an `FX0A`: the lowest fresh press, once the wait has begun (45_timer_key.md R181). -/
def State.awaitedKey (s : State) : Option Key := if s.wait then lowestSet s.rise else none

/-- LD Vx, K when a fresh press ends the wait. -/
theorem exec_ldVxK_of_some {s : State} {k : Key} (x : Reg) (hk : s.awaitedKey = some k) :
    exec (.ldVxK x) s = .next ((s.sampleKeys false).setReg x (BitVec.ofNat 8 k.val)).advance := by
  unfold State.awaitedKey at hk
  simp only [exec, execLdVxK, hk]

/-- LD Vx, K when the wait begins or goes on. -/
theorem exec_ldVxK_of_none {s : State} (x : Reg) (hk : s.awaitedKey = none) :
    exec (.ldVxK x) s = .next (s.sampleKeys true) := by
  unfold State.awaitedKey at hk
  simp only [exec, execLdVxK, hk]

/-- What LD Vx, K can do. -/
theorem exec_ldVxK_cases {s t : State} {x : Reg} (h : exec (.ldVxK x) s = .next t) :
    (∃ b, t = ((s.sampleKeys false).setReg x b).advance) ∨ t = s.sampleKeys true := by
  cases hk : s.awaitedKey with
  | some k => exact .inl ⟨_, Host.Outcome.next.inj (h.symm.trans (exec_ldVxK_of_some x hk))⟩
  | none => exact .inr (Host.Outcome.next.inj (h.symm.trans (exec_ldVxK_of_none x hk)))

/-! ### Write-sets (10_state.md R38) -/

variable {i : Instr} {s t : State}

/-- A register outside the write-set of the instruction keeps its value (10_state.md R21). -/
theorem exec_reg_eq {r : Reg} (h : exec i s = .next t) (hr : writesReg i r = false) : t.reg r = s.reg r := by
  cases i with
  | ldImm x nn | addImm x nn | ldReg x y | orReg x y | andReg x y | xorReg x y | rnd x nn | ldVxDT x =>
    obtain rfl := Host.Outcome.next.inj h
    have hx : r ≠ x := by simpa [writesReg] using hr
    simp [hx]
  | addReg x y | subReg x y | subnReg x y | shr x y | shl x y =>
    obtain rfl := Host.Outcome.next.inj h
    have hx : r ≠ x ∧ r ≠ vf := by simpa [writesReg] using hr
    simp [hx]
  | drw x y n =>
    obtain rfl := Host.Outcome.next.inj h
    have hf : r ≠ vf := by simpa [writesReg] using hr
    simp [hf]
  | loadRegs x =>
    obtain rfl := Host.Outcome.next.inj h
    have hx : ¬ r ≤ x := by simpa [writesReg] using hr
    simp [State.bumpI, hx]
  | cls | sys n | jp n | jpV0 n | ldI n | ldDTVx x | ldSTVx x | addI x | ldF x | ldB x | storeRegs x =>
    obtain rfl := Host.Outcome.next.inj h
    simp [State.bumpI]
  | seImm x nn | sneImm x nn | seReg x y | sneReg x y | skp x | sknp x =>
    obtain rfl := Host.Outcome.next.inj h
    simp [State.skipIf_eq]
  | ret => obtain ⟨_, rfl⟩ | rfl := exec_ret_cases h <;> rfl
  | call n => obtain ⟨_, rfl⟩ | rfl := exec_call_cases h <;> rfl
  | ldVxK x =>
    have hx : r ≠ x := by simpa [writesReg] using hr
    obtain ⟨b, rfl⟩ | rfl := exec_ldVxK_cases h <;> simp [hx]

/-- Settles O57. The register clause is `exec_reg_eq`; every other clause compares one field of the instruction's explicit
next state with the old one. -/
theorem onlyTheListedInstructionsWriteEachState : Obligations.OnlyTheListedInstructionsWriteEachState := by
  intro i s t h
  have hreg : ∀ r, t.reg r ≠ s.reg r → writesReg i r = true := fun r hne =>
    Bool.eq_true_of_not_eq_false fun hr => hne (exec_reg_eq h hr)
  refine And.elim (fun hkeys (hrest : _ ∧ _) => ⟨hkeys, hrest.1, hreg, hrest.2⟩) ?_
  cases i with
  | addReg x y | subReg x y | subnReg x y | shr x y | shl x y =>
    obtain rfl := Host.Outcome.next.inj h
    simp [State.resultThenFlag, State.flagThenResult]
  | seImm x nn | sneImm x nn | seReg x y | sneReg x y | skp x | sknp x =>
    obtain rfl := Host.Outcome.next.inj h
    simp [State.skipIf_eq]
  | ret => obtain ⟨_, rfl⟩ | rfl := exec_ret_cases h <;> simp
  | call n => obtain ⟨_, rfl⟩ | rfl := exec_call_cases h <;> simp
  | ldVxK x => obtain ⟨b, rfl⟩ | rfl := exec_ldVxK_cases h <;> simp
  | _ =>
    obtain rfl := Host.Outcome.next.inj h
    simp [State.bumpI]

/-- Only `FX0A` writes the wait registers. -/
theorem exec_wait_eq (h : exec i s = .next t) (hi : ∀ x, i ≠ .ldVxK x) : t.wait = s.wait ∧ t.keyPrev = s.keyPrev := by
  obtain ⟨-, -, -, -, -, -, -, -, -, hwait, -⟩ := onlyTheListedInstructionsWriteEachState i s t h
  by_contra hne
  obtain ⟨x, hx⟩ := hwait (not_and_or.mp hne)
  exact hi x hx

/-- Which error an instruction can raise (60_exceptions.md R200). -/
inductive MayRaise : Instr → ErrCode → Prop
  | underflow : MayRaise .ret .stackUnderflow
  | overflow (n : BitVec 12) : MayRaise (.call n) .stackOverflow
  | unknown (n : BitVec 12) : MayRaise (.sys n) .unknownOpcode

/-- An instruction either leaves the error registers alone or takes the error entry under its own word, which is then its
whole effect (60_exceptions.md R202). -/
theorem exec_error_cases (h : exec i s = .next t) :
    (t.halt = s.halt ∧ t.err = s.err ∧ t.errOpcode = s.errOpcode) ∨ ∃ e, MayRaise i e ∧ t = s.raise e (encode i) := by
  obtain ⟨-, -, -, -, -, -, -, -, -, -, herr, -⟩ := onlyTheListedInstructionsWriteEachState i s t h
  refine or_iff_not_imp_left.mpr fun hne => ?_
  obtain rfl | ⟨n, rfl | rfl⟩ := herr (by simpa only [not_and_or] using hne)
  · obtain ⟨_, rfl⟩ | rfl := exec_ret_cases h
    · exact absurd ⟨rfl, rfl, rfl⟩ hne
    · exact ⟨_, .underflow, rfl⟩
  · exact ⟨_, .unknown n, (Host.Outcome.next.inj h).symm⟩
  · obtain ⟨_, rfl⟩ | rfl := exec_call_cases h
    · exact absurd ⟨rfl, rfl, rfl⟩ hne
    · exact ⟨_, .overflow n, rfl⟩

/-- An instruction keeps the canonical form of memory. -/
theorem exec_keeps_memory_wf (h : exec i s = .next t) (hs : Memory.wf s.params s.mem = true) :
    Memory.wf t.params t.mem = true := by
  obtain ⟨-, hparams, -, -, -, -, -, -, -, -, -, hmem, -⟩ := onlyTheListedInstructionsWriteEachState i s t h
  by_cases hm : t.mem = s.mem
  · rw [hm, hparams]
    exact hs
  · obtain ⟨x, rfl | rfl⟩ := hmem hm <;> obtain rfl := Host.Outcome.next.inj h
    · exact State.wf_memWriteList (decimalDigits (s.reg x)) s (s.indexed 0) hs
    · exact State.wf_memWriteList (s.regsUpTo x) s (s.indexed 0) hs

/-- A sequential instruction completes at the next instruction (10_state.md R25). -/
theorem exec_sequential (hi : sequential i = true) (s : State) : ∃ t, exec i s = .next t ∧ t.pc = s.npc := by
  cases i with
  | ret | sys n | jp n | call n | jpV0 n | seImm x nn | sneImm x nn | seReg x y | sneReg x y | skp x | sknp x | ldVxK x =>
    cases hi
  | ldB x | storeRegs x => exact ⟨_, rfl, by simp [State.bumpI, State.npc]⟩
  | _ => exact ⟨_, rfl, rfl⟩

/-- Settles O56: `exec_sequential` for completion and `PC`, the write-sets for the rest. -/
theorem otherInstructionsAdvanceByTwo : Obligations.OtherInstructionsAdvanceByTwo := by
  intro i s hi
  obtain ⟨t, h, hpc⟩ := exec_sequential hi s
  obtain ⟨hwait, hprev⟩ := exec_wait_eq h (by rintro x rfl; cases hi)
  obtain ⟨hhalt, herr, hop⟩ | ⟨e, he, -⟩ := exec_error_cases h
  · exact ⟨t, h, hpc, hhalt, herr, hop, hwait, hprev⟩
  · cases he <;> cases hi

end Sys2Proof.Machine
end

section
/-! SUPPORT. The word of a decoded instruction is the word decoded (30_encoding.md R102). -/

namespace Sys2Proof

variable {w : Word} {i : Instr}

theorem encode_decodeFamily0 (hf : fieldF w = 0x0#4) : encode (decodeFamily0 w) = w := by
  have hw : encNNN 0x0#4 (fieldNNN w) = w := encNNN_of_family hf
  unfold decodeFamily0
  split
  · next hn => rw [← hw, hn]; rfl
  · next hn => rw [← hw, hn]; rfl
  · exact hw

theorem encode_of_decodeFamily8 (hf : fieldF w = 0x8#4) (h : decodeFamily8 w = .ok i) : encode i = w := by
  unfold decodeFamily8 at h
  split at h <;> cases h <;> exact encXYN_of_sub hf ‹_›

theorem encode_of_decodeFamilyE (hf : fieldF w = 0xE#4) (h : decodeFamilyE w = .ok i) : encode i = w := by
  unfold decodeFamilyE at h
  split at h <;> cases h <;> exact encXNN_of_sub hf ‹_›

theorem encode_of_decodeFamilyF (hf : fieldF w = 0xF#4) (h : decodeFamilyF w = .ok i) : encode i = w := by
  unfold decodeFamilyF at h
  split at h <;> cases h <;> exact encXNN_of_sub hf ‹_›

/-- Encoding gives back the word an instruction was decoded from. -/
theorem encode_of_decode (h : decode w = .ok i) : encode i = w := by
  unfold decode at h
  split at h
  · next hf => cases h; exact encode_decodeFamily0 hf
  · next hf => cases h; exact encNNN_of_family hf
  · next hf => cases h; exact encNNN_of_family hf
  · next hf => cases h; exact encXNN_of_family hf
  · next hf => cases h; exact encXNN_of_family hf
  · next hf =>
    split at h
    · next hn => cases h; exact encXYN_of_sub hf hn
    · cases h
  · next hf => cases h; exact encXNN_of_family hf
  · next hf => cases h; exact encXNN_of_family hf
  · next hf => exact encode_of_decodeFamily8 hf h
  · next hf =>
    split at h
    · next hn => cases h; exact encXYN_of_sub hf hn
    · cases h
  · next hf => cases h; exact encNNN_of_family hf
  · next hf => cases h; exact encNNN_of_family hf
  · next hf => cases h; exact encXNN_of_family hf
  · next hf => cases h; exact encXYN_of_sub hf rfl
  · next hf => exact encode_of_decodeFamilyE hf h
  · next hf => exact encode_of_decodeFamilyF hf h
  · cases h

end Sys2Proof
end

section
/-! SUPPORT. The invariant of 10_state.md R40: at reset, under a step, and under every operation of the environment. -/

namespace Sys2Proof.Machine

/-! ### Reset -/

theorem resetValues_resetWith (p : Params) (d : Nat) : ({ State.resetWith p with draws := d } : State).ResetValues := by
  refine ⟨fun r => ?_, rfl, rfl, rfl, fun k => ?_, rfl, rfl, rfl, rfl, fun x y => ?_, rfl, rfl, rfl, rfl, rfl, rfl,
    fun a ha => ?_, fun a hlo hhi => ?_⟩
  · simp [State.reg, State.resetWith]
  · simp [State.resetWith]
  · simp [State.cell, State.resetWith]
  · have hmod : a % 4096 = a := Nat.mod_eq_of_lt (by omega)
    simp [State.memRead, State.resetWith, memGet, resetByte, hmod, ha]
  · have hmod : a % 4096 = a := Nat.mod_eq_of_lt hhi
    have hfont : ¬ a < 80 := by omega
    simp [State.memRead, State.resetWith, memGet, resetByte, hmod, hfont]

/-- Settles O1: every claim is `resetValues_resetWith` for some parameters and some count of random bytes. -/
theorem resetLeavesTheTableOfValues : Obligations.ResetLeavesTheTableOfValues :=
  ⟨resetValues_resetWith defaultParams 0, fun p => ⟨resetValues_resetWith p 0, rfl⟩,
    fun s => ⟨resetValues_resetWith s.params s.draws, rfl, rfl⟩⟩

theorem inv_resetWith (p : Params) (d : Nat) : ({ State.resetWith p with draws := d } : State).Inv :=
  ⟨Nat.zero_le 16, by simp [State.resetWith], fun hwait => (Bool.false_ne_true hwait).elim, rfl, Memory.wf_reset p⟩

/-- Settles O2: every claim is `inv_resetWith` for some parameters and some count of random bytes. -/
theorem resetMeetsTheInvariant : Obligations.ResetMeetsTheInvariant :=
  ⟨inv_resetWith defaultParams 0, fun p => inv_resetWith p 0, fun s => inv_resetWith s.params s.draws⟩

/-! ### Step -/

variable {i : Instr} {s t : State}

theorem State.Inv.wait_clause (hs : s.Inv) : s.wait = true → s.halt = false ∧ ∃ x, decode s.fetch = .ok (.ldVxK x) := by
  obtain ⟨-, -, hwait, -⟩ := hs
  exact hwait

theorem State.Inv.memory_wf (hs : s.Inv) : Memory.wf s.params s.mem = true := by
  obtain ⟨-, -, -, -, hmem⟩ := hs
  exact hmem

/-- Away from an `FX0A` there is no wait. -/
theorem State.Inv.wait_eq_false (hs : s.Inv) (hd : ∀ x, decode s.fetch ≠ .ok (.ldVxK x)) : s.wait = false :=
  Bool.eq_false_of_not_eq_true fun hw =>
    have ⟨_, x, hx⟩ := hs.wait_clause hw
    hd x hx

/-- A next state with the same error registers keeps the invariant if its wait and its memory do. -/
theorem State.Inv.of_same_error (hs : s.Inv) (hhalt : t.halt = s.halt) (herr : t.err = s.err)
    (hop : t.errOpcode = s.errOpcode)
    (hwait : t.wait = true → t.halt = false ∧ ∃ x, decode t.fetch = .ok (.ldVxK x))
    (hmem : Memory.wf t.params t.mem = true) : t.Inv := by
  obtain ⟨-, hiff, -, hrec, -⟩ := hs
  exact ⟨by omega, by rwa [hhalt, herr], hwait, by rwa [herr, hop], hmem⟩

/-- The error entry keeps the invariant when the error is one and the word is of the kind that raises it. -/
theorem State.Inv.raise {e : ErrCode} {w : Word} (hs : s.Inv) (hwait : s.wait = false) (he : e ≠ .noError)
    (hrec : ErrorRecorded e w) : (s.raise e w).Inv :=
  ⟨by omega, iff_of_true rfl he, fun hw => absurd (hwait.symm.trans hw) Bool.false_ne_true, hrec, hs.memory_wf⟩

theorem MayRaise.ne_noError {e : ErrCode} (he : MayRaise i e) : e ≠ .noError := by
  cases he <;> decide

/-- The error entry of a decoded instruction records the word it was decoded from (60_exceptions.md R200). -/
theorem MayRaise.errorRecorded {e : ErrCode} {w : Word} (he : MayRaise i e) (hd : decode w = .ok i) :
    ErrorRecorded e (encode i) := by
  have hw : encode i = w := encode_of_decode hd
  cases he with
  | underflow => rfl
  | overflow n => exact ⟨n, hw ▸ hd⟩
  | unknown n =>
    intro j hj
    rw [hw, hd] at hj
    cases hj
    rfl

/-- Executing the fetched instruction keeps the invariant. -/
theorem State.Inv.exec (hs : s.Inv) (hhalt : s.halt = false) (hd : decode s.fetch = .ok i) (h : exec i s = .next t) :
    t.Inv := by
  have hmem : Memory.wf t.params t.mem = true := exec_keeps_memory_wf h hs.memory_wf
  by_cases hk : ∃ x, i = .ldVxK x
  · obtain ⟨x, rfl⟩ := hk
    obtain ⟨b, rfl⟩ | rfl := exec_ldVxK_cases h
    · exact hs.of_same_error rfl rfl rfl (fun hw => absurd hw Bool.false_ne_true) hmem
    · exact hs.of_same_error rfl rfl rfl (fun _ => ⟨hhalt, x, hd⟩) hmem
  · have hi : ∀ x, i ≠ .ldVxK x := not_exists.mp hk
    have hwait : s.wait = false := hs.wait_eq_false fun x hx => hi x (Except.ok.inj (hd.symm.trans hx))
    obtain ⟨hhalt', herr, hop⟩ | ⟨e, he, rfl⟩ := exec_error_cases h
    · have hwait' : t.wait = false := (exec_wait_eq h hi).1.trans hwait
      exact hs.of_same_error hhalt' herr hop (fun hw => absurd (hwait'.symm.trans hw) Bool.false_ne_true) hmem
    · exact hs.raise hwait he.ne_noError (he.errorRecorded hd)

/-- Settles O3: the three cases of a step are a halted engine, the fetched instruction and an illegal word. -/
theorem stepKeepsTheInvariant : Obligations.StepKeepsTheInvariant := by
  intro s t hs h
  obtain ⟨-, rfl⟩ | ⟨hhalt, i, hd, hexec⟩ | ⟨-, ⟨e, hd⟩, rfl⟩ := step_cases h
  · exact hs
  · exact hs.exec hhalt hd hexec
  · have hno : ∀ i, decode s.fetch ≠ .ok i := by simp [hd]
    exact hs.raise (hs.wait_eq_false fun x => hno _) (by decide) fun i hi => absurd hi (hno i)

/-! ### The operations of the environment -/

/-- What one operation can leave in CORE when it is neither `Reset()` nor `Load` (00_scope.md R9). -/
inductive RunningMove (s : State) : State → Prop
  | step {t : State} (h : Machine.step s = .next t) : RunningMove s t
  | tick : RunningMove s s.tick
  | setKey (k : Key) (b : Bool) : RunningMove s (s.setKey k b)
  | readDisplay : RunningMove s s
  | clearDrawFlag : RunningMove s s.clearDrawFlag

/-- What a move of the environment can do to the system (70_reset_and_hazards.md R242). -/
inductive System.Move (sys : System) : System → Prop
  | reset : Move sys ⟨sys.core.doReset, .fresh⟩
  | refusedLoad (hfresh : sys.phase = .fresh) : Move sys sys
  | load (hfresh : sys.phase = .fresh) (bytes : List Byte) : Move sys ⟨sys.core.memWriteList 0x200 bytes, .running⟩
  | running {t : State} (hbooted : sys.phase ≠ .unbooted) (h : RunningMove sys.core t) : Move sys ⟨t, .running⟩

theorem State.load_eq_some {bytes : List Byte} (h : s.load bytes = some t) : t = s.memWriteList 0x200 bytes := by
  unfold State.load at h
  split at h
  · cases h
  · exact (Option.some.inj h).symm

theorem System.move_of_apply {sys sys' : System} {op : Op} {ans : Answer} (h : sys.apply op = some (sys', ans)) :
    sys.Move sys' := by
  unfold System.apply at h
  split at h
  case h_1 => cases h; exact .reset
  case h_2 | h_3 => cases h
  case h_4 bytes hfresh =>
    split at h
    · next hload =>
      cases h
      exact State.load_eq_some hload ▸ .load hfresh bytes
    · cases h
      exact .refusedLoad hfresh
  case h_5 hbooted =>
    split at h
    · next hstep =>
      cases h
      exact .running hbooted (.step hstep)
    · cases h
    · cases h
  case h_6 hbooted => cases h; exact .running hbooted .tick
  case h_7 k b hbooted => cases h; exact .running hbooted (.setKey k b)
  case h_8 hbooted => cases h; exact .running hbooted .readDisplay
  case h_9 hbooted => cases h; exact .running hbooted .clearDrawFlag

theorem RunningMove.inv (h : RunningMove s t) (hs : s.Inv) : t.Inv := by
  cases h with
  | step h => exact stepKeepsTheInvariant s t hs h
  | tick | setKey k b | readDisplay | clearDrawFlag =>
    exact hs.of_same_error rfl rfl rfl hs.wait_clause hs.memory_wf

/-- Loading an image into the state `Reset()` leaves keeps the invariant: there is no wait. -/
theorem State.Inv.memWriteList (hs : s.Inv) (hwait : s.wait = false) (a : Nat) (bytes : List Byte) :
    (s.memWriteList a bytes).Inv :=
  hs.of_same_error (by simp) (by simp) (by simp) (fun hw => by simp [hwait] at hw)
    (State.wf_memWriteList bytes s a hs.memory_wf)

theorem System.Inv.apply {sys sys' : System} {op : Op} {ans : Answer} (hs : sys.Inv)
    (h : sys.apply op = some (sys', ans)) : sys'.Inv := by
  cases System.move_of_apply h with
  | reset => exact fun _ => ⟨inv_resetWith sys.core.params sys.core.draws, fun _ => rfl⟩
  | refusedLoad => exact hs
  | load hfresh bytes =>
    obtain ⟨hcore, hreset⟩ := hs (by simp [hfresh])
    have hwait : sys.core.wait = false := by rw [hreset hfresh]; rfl
    exact fun _ => ⟨hcore.memWriteList hwait 0x200 bytes, nofun⟩
  | running hbooted hmove =>
    obtain ⟨hcore, -⟩ := hs hbooted
    exact fun _ => ⟨hmove.inv hcore, nofun⟩

theorem System.Inv.run {sys sys' : System} {ops : List Op} (hs : sys.Inv) (h : sys.run ops = some sys') : sys'.Inv := by
  induction ops generalizing sys with
  | nil =>
    obtain rfl := Option.some.inj h
    exact hs
  | cons op ops ih =>
    unfold System.run at h
    split at h
    · next happly => exact ih (hs.apply happly) h
    · cases h

/-- Settles O4: power-on is before the first `Reset()`, one operation is `System.Inv.apply`, a list is an induction. -/
theorem everyOperationKeepsTheInvariant : Obligations.EveryOperationKeepsTheInvariant :=
  ⟨fun _ hbooted => absurd rfl hbooted, fun _ _ _ _ => System.Inv.apply, fun _ _ _ => System.Inv.run⟩

end Sys2Proof.Machine
end

section
/-! SUPPORT. What no instruction computes from: the dead stack slots and the registers for the host (10_state.md R26, R27,
R31, R33). -/

namespace Sys2Proof.Machine

variable {i : Instr} {s s' t : State}

/-- Storing bytes commutes with whatever storing one byte commutes with. -/
theorem State.memWriteList_comm {f : State → State} (hf : ∀ s a b, (f s).memWrite a b = f (s.memWrite a b))
    (bs : List Byte) (s : State) (a : Nat) : (f s).memWriteList a bs = f (s.memWriteList a bs) := by
  induction bs generalizing s a with
  | nil => rfl
  | cons b bs ih => rw [State.memWriteList, hf, ih, State.memWriteList]

/-! ### The stack -/

/-- `s` with another stack, `SP` kept. -/
def State.withStack (s : State) (k : Vector Word 16) : State := { s with stack := k }

theorem State.memWriteList_withStack (k : Vector Word 16) (bs : List Byte) (s : State) (a : Nat) :
    (s.withStack k).memWriteList a bs = (s.memWriteList a bs).withStack k :=
  State.memWriteList_comm (f := (State.withStack · k)) (fun _ _ _ => rfl) bs s a

theorem State.skipIf_withStack (k : Vector Word 16) (s : State) (c : Bool) :
    (s.withStack k).skipIf c = (s.skipIf c).withStack k := by
  cases c <;> rfl

theorem State.drawRows_withStack (k : Vector Word 16) (s : State) (x0 y0 n : Nat) :
    (s.withStack k).drawRows x0 y0 n = s.drawRows x0 y0 n :=
  drawRows_congr (s := s) (t := s.withStack k) rfl rfl rfl rfl x0 y0 n

/-- An instruction other than RET and CALL does the same whatever the stack holds. -/
theorem exec_withStack (k : Vector Word 16) (hret : i ≠ .ret) (hcall : ∀ n, i ≠ .call n) (h : exec i s = .next t) :
    exec i (s.withStack k) = .next (t.withStack k) := by
  cases i with
  | ret => exact absurd rfl hret
  | call n => exact absurd rfl (hcall n)
  | seImm x nn | sneImm x nn | seReg x y | sneReg x y | skp x | sknp x =>
    obtain rfl := Host.Outcome.next.inj h
    exact congrArg Host.Outcome.next (State.skipIf_withStack k s _)
  | drw x y n =>
    obtain rfl := Host.Outcome.next.inj h
    simp only [exec, execDrw, State.drawRows_withStack]
    rfl
  | storeRegs x =>
    obtain rfl := Host.Outcome.next.inj h
    exact congrArg (fun u => Host.Outcome.next (u.bumpI x).advance)
      (State.memWriteList_withStack k (s.regsUpTo x) s (s.indexed 0))
  | ldVxK x =>
    cases hk : s.awaitedKey with
    | some key =>
      obtain rfl := Host.Outcome.next.inj ((exec_ldVxK_of_some x hk).symm.trans h)
      exact exec_ldVxK_of_some (s := s.withStack k) x hk
    | none =>
      obtain rfl := Host.Outcome.next.inj ((exec_ldVxK_of_none x hk).symm.trans h)
      exact exec_ldVxK_of_none (s := s.withStack k) x hk
  | _ =>
    obtain rfl := Host.Outcome.next.inj h
    rfl

/-- An instruction other than RET and CALL leaves the stack alone. -/
theorem exec_stack_eq (hret : i ≠ .ret) (hcall : ∀ n, i ≠ .call n) (h : exec i s = .next t) :
    t.sp = s.sp ∧ t.stack = s.stack := by
  obtain ⟨-, -, -, -, hsp, hstack, -⟩ := onlyTheListedInstructionsWriteEachState i s t h
  constructor <;> by_contra hne
  · obtain rfl | ⟨n, rfl⟩ := hsp hne
    · exact hret rfl
    · exact hcall n rfl
  · obtain ⟨n, rfl⟩ := hstack hne
    exact hcall n rfl

/-- RET reads the topmost live slot alone. -/
theorem SameButDeadSlots.exec_ret (hs : SameButDeadSlots s s') (h : exec .ret s = .next t) :
    ∃ t', exec .ret s' = .next t' ∧ SameButDeadSlots t t' := by
  obtain ⟨heq, hlive⟩ := hs
  obtain ⟨k, rfl⟩ : ∃ k, s' = s.withStack k := ⟨_, heq⟩
  by_cases hpos : 0 < s.sp.val
  · obtain rfl := Host.Outcome.next.inj ((exec_ret_of_pos hpos).symm.trans h)
    have htop : s.stack[s.sp.val - 1] = k[s.sp.val - 1] := hlive ⟨s.sp.val - 1, by omega⟩ (Nat.sub_one_lt_of_lt hpos)
    refine ⟨_, exec_ret_of_pos (s := s.withStack k) hpos, ?_, fun j hj => hlive j (Nat.lt_of_lt_of_le hj (Nat.sub_le _ 1))⟩
    simp [State.withStack, htop]
  · obtain rfl := Host.Outcome.next.inj ((exec_ret_of_empty hpos).symm.trans h)
    exact ⟨_, exec_ret_of_empty (s := s.withStack k) hpos, rfl, hlive⟩

/-- CALL makes the lowest dead slot live and writes it. -/
theorem SameButDeadSlots.exec_call {n : BitVec 12} (hs : SameButDeadSlots s s') (h : exec (.call n) s = .next t) :
    ∃ t', exec (.call n) s' = .next t' ∧ SameButDeadSlots t t' := by
  obtain ⟨heq, hlive⟩ := hs
  obtain ⟨k, rfl⟩ : ∃ k, s' = s.withStack k := ⟨_, heq⟩
  by_cases hroom : s.sp.val < 16
  · obtain rfl := Host.Outcome.next.inj ((exec_call_of_lt n hroom).symm.trans h)
    refine ⟨_, exec_call_of_lt (s := s.withStack k) n hroom, rfl, fun j hj => ?_⟩
    by_cases htop : s.sp.val = j.val
    · simp [htop, State.withStack, State.npc]
    · have hj' : j.val < s.sp.val := Nat.lt_of_le_of_ne (Nat.le_of_lt_succ hj) (Ne.symm htop)
      have hslot : s.stack[j.val] = k[j.val] := hlive j hj'
      simp [htop, State.withStack, hslot]
  · obtain rfl := Host.Outcome.next.inj ((exec_call_of_full n hroom).symm.trans h)
    exact ⟨_, exec_call_of_full (s := s.withStack k) n hroom, rfl, hlive⟩

theorem SameButDeadSlots.exec (hs : SameButDeadSlots s s') (h : exec i s = .next t) :
    ∃ t', exec i s' = .next t' ∧ SameButDeadSlots t t' := by
  by_cases hret : i = .ret
  · subst hret
    exact hs.exec_ret h
  by_cases hcall : ∃ n, i = .call n
  · obtain ⟨n, rfl⟩ := hcall
    exact hs.exec_call h
  have hcall' : ∀ n, i ≠ .call n := not_exists.mp hcall
  obtain ⟨heq, hlive⟩ := hs
  obtain ⟨hsp, hstack⟩ := exec_stack_eq hret hcall' h
  have h' : Machine.exec i s' = .next (t.withStack s'.stack) := by
    rw [heq]
    exact exec_withStack _ hret hcall' h
  exact ⟨_, h', rfl, fun j hj => by simpa [hstack, State.withStack] using hlive j (by rwa [← hsp])⟩

/-- The error entry does not touch the stack. -/
theorem SameButDeadSlots.raise (hs : SameButDeadSlots s s') (err : ErrCode) (w : Word) :
    SameButDeadSlots (s.raise err w) (s'.raise err w) := by
  obtain ⟨heq, hlive⟩ := hs
  obtain ⟨k, rfl⟩ : ∃ k, s' = s.withStack k := ⟨_, heq⟩
  exact ⟨rfl, hlive⟩

theorem SameButDeadSlots.halt_eq (hs : SameButDeadSlots s s') : s'.halt = s.halt := by
  obtain ⟨heq, -⟩ := hs
  rw [heq]

theorem SameButDeadSlots.fetch_eq (hs : SameButDeadSlots s s') : s'.fetch = s.fetch := by
  obtain ⟨heq, -⟩ := hs
  rw [heq]
  rfl

/-- Settles O58: both states fetch the same word, and what it does keeps the relation. -/
theorem stackSlotsAboveSpAreUnobservable : Obligations.StackSlotsAboveSpAreUnobservable := by
  intro s s' t hs h
  obtain ⟨hh, rfl⟩ | ⟨hh, i, hd, hexec⟩ | ⟨hh, ⟨e, hd⟩, rfl⟩ := step_cases h <;> rw [← hs.halt_eq] at hh
  · exact ⟨s', step_of_halted hh, hs⟩
  · rw [← hs.fetch_eq] at hd
    rw [step_of_decode_ok hh hd]
    exact hs.exec hexec
  · rw [← hs.fetch_eq] at hd ⊢
    exact ⟨_, step_of_decode_error hh hd, hs.raise _ _⟩

/-! ### The registers for the host -/

/-- `s` with other values of `DRAW_FLAG`, `ST`, `HALT`, `ERR` and `ERR_OPCODE`. -/
def State.withHost (s : State) (flag : Bool) (st : Byte) (halt : Bool) (err : ErrCode) (op : Word) : State :=
  { s with drawFlag := flag, st := st, halt := halt, err := err, errOpcode := op }

section
variable (flag : Bool) (st : Byte) (halt : Bool) (err : ErrCode) (op : Word)

theorem State.memWriteList_withHost (bs : List Byte) (s : State) (a : Nat) :
    (s.withHost flag st halt err op).memWriteList a bs = (s.memWriteList a bs).withHost flag st halt err op :=
  State.memWriteList_comm (f := (State.withHost · flag st halt err op)) (fun _ _ _ => rfl) bs s a

theorem State.drawRows_withHost (s : State) (x0 y0 n : Nat) :
    (s.withHost flag st halt err op).drawRows x0 y0 n = s.drawRows x0 y0 n :=
  drawRows_congr (s := s) (t := s.withHost flag st halt err op) rfl rfl rfl rfl x0 y0 n

end

/-- Settles O59: every operand is read from the fields the two states share. -/
theorem hostRegistersAreUnobservable : Obligations.HostRegistersAreUnobservable := by
  intro i s s' t hs h
  obtain ⟨flag, st, halt, err, op, rfl⟩ : ∃ flag st halt err op, s' = s.withHost flag st halt err op :=
    ⟨_, _, _, _, _, hs⟩
  cases i with
  | ret =>
    by_cases hpos : 0 < s.sp.val
    · obtain rfl := Host.Outcome.next.inj ((exec_ret_of_pos hpos).symm.trans h)
      exact ⟨_, exec_ret_of_pos (s := s.withHost flag st halt err op) hpos, rfl⟩
    · obtain rfl := Host.Outcome.next.inj ((exec_ret_of_empty hpos).symm.trans h)
      exact ⟨_, exec_ret_of_empty (s := s.withHost flag st halt err op) hpos, rfl⟩
  | call n =>
    by_cases hroom : s.sp.val < 16
    · obtain rfl := Host.Outcome.next.inj ((exec_call_of_lt n hroom).symm.trans h)
      exact ⟨_, exec_call_of_lt (s := s.withHost flag st halt err op) n hroom, rfl⟩
    · obtain rfl := Host.Outcome.next.inj ((exec_call_of_full n hroom).symm.trans h)
      exact ⟨_, exec_call_of_full (s := s.withHost flag st halt err op) n hroom, rfl⟩
  | ldVxK x =>
    cases hk : s.awaitedKey with
    | some key =>
      obtain rfl := Host.Outcome.next.inj ((exec_ldVxK_of_some x hk).symm.trans h)
      exact ⟨_, exec_ldVxK_of_some (s := s.withHost flag st halt err op) x hk, rfl⟩
    | none =>
      obtain rfl := Host.Outcome.next.inj ((exec_ldVxK_of_none x hk).symm.trans h)
      exact ⟨_, exec_ldVxK_of_none (s := s.withHost flag st halt err op) x hk, rfl⟩
  | seImm x nn | sneImm x nn | seReg x y | sneReg x y | skp x | sknp x =>
    obtain rfl := Host.Outcome.next.inj h
    refine ⟨_, rfl, ?_⟩
    rw [State.skipIf_eq, State.skipIf_eq]
    rfl
  | drw x y n =>
    obtain rfl := Host.Outcome.next.inj h
    refine ⟨_, rfl, ?_⟩
    rw [State.drawRows_withHost]
    rfl
  | storeRegs x =>
    obtain rfl := Host.Outcome.next.inj h
    refine ⟨_, rfl, ?_⟩
    rw [State.memWriteList_withHost]
    rfl
  | _ =>
    obtain rfl := Host.Outcome.next.inj h
    exact ⟨_, rfl, rfl⟩

end Sys2Proof.Machine
end

section
/-! SUPPORT. What the next fetch reads after a store, and a word placed at `PC` (20_memory.md R63 to R65, R71). -/

namespace Sys2Proof.Machine

/-! ### The fetch after a store -/

/-- A store leaves `PC` alone, so each of the two fetched bytes is a read after that store. -/
theorem State.fetch_memWrite (s : State) (a : Nat) (b : Byte) :
    (s.memWrite a b).fetch =
      (if a % 4096 = s.pc.toNat % 4096 then b else s.memRead s.pc.toNat) ++
      (if a % 4096 = (s.pc.toNat + 1) % 4096 then b else s.memRead (s.pc.toNat + 1)) := by
  simp only [State.fetch, State.pc_memWrite, State.memRead_memWrite, eq_comm (b := a % 4096)]

/-- Settles O8: the fetch after a store is `State.fetch_memWrite`. -/
theorem storeIsSeenByTheNextFetch : Obligations.StoreIsSeenByTheNextFetch := State.fetch_memWrite

/-! ### A word placed at `PC` -/

/-- The two fetch addresses differ modulo 4096, so the store of the low byte does not hit the high byte. -/
@[simp] theorem State.fetch_placeWord (s : State) (w : Word) : (s.placeWord w).fetch = w := by
  have hne : ¬ (s.pc.toNat + 1) % 4096 = s.pc.toNat % 4096 := by omega
  calc (s.placeWord w).fetch
      = ((s.memWrite s.pc.toNat (w.extractLsb' 8 8)).memWrite (s.pc.toNat + 1) (w.extractLsb' 0 8)).fetch := rfl
    _ = w.extractLsb' 8 8 ++ w.extractLsb' 0 8 := by
      rw [State.fetch_memWrite, State.pc_memWrite, if_neg hne, if_pos rfl, State.memRead_memWrite, if_pos rfl]
    _ = w := highByte_append_lowByte w

@[simp] theorem State.halt_placeWord (s : State) (w : Word) : (s.placeWord w).halt = s.halt :=
  State.halt_memWriteList _ _ _

@[simp] theorem State.halt_unhalted (s : State) : s.unhalted.halt = false := by
  unfold State.unhalted
  split
  · rfl
  · next hrun => exact Bool.eq_false_of_not_eq_true hrun

@[simp] theorem State.fetch_withFetchWord (s : State) (nbits w : Nat) :
    (s.withFetchWord nbits w).fetch = tableWord nbits w :=
  State.fetch_placeWord _ _

@[simp] theorem State.halt_withFetchWord (s : State) (nbits w : Nat) : (s.withFetchWord nbits w).halt = false :=
  (State.halt_placeWord _ _).trans (State.halt_unhalted s)

/-- A row of 16 bits is the word itself. -/
theorem tableWord_sixteen (w : Nat) : tableWord 16 w = BitVec.ofNat 16 w :=
  BitVec.eq_of_toNat_eq (by simp [tableWord])

/-- Decoding a word from its two bytes is decoding the word (20_memory.md R64). -/
theorem decodeBytes_wordBytes (w : Word) : decodeBytes (wordBytes w) = (decode w).map fun i => (i, []) := by
  rw [wordBytes, decodeBytes, highByte_append_lowByte]

theorem decode_of_decodeTableWord {nbits w : Nat} {i : Instr} (h : decodeTableWord nbits w = some i) :
    decode (tableWord nbits w) = .ok i := by
  rw [decodeTableWord, decodeBytes_wordBytes] at h
  cases hd : decode (tableWord nbits w) with
  | ok j =>
    rw [hd] at h
    exact congrArg Except.ok (Option.some.inj h)
  | error e =>
    rw [hd] at h
    cases h

/-- The step runs what the placed word decodes to, from any state: the placing un-halts it (log entry 7). -/
theorem step_withFetchWord {nbits w : Nat} {i : Instr} (s : State) (h : decodeTableWord nbits w = some i) :
    step (s.withFetchWord nbits w) = exec i (s.withFetchWord nbits w) :=
  step_of_decode_ok (s.halt_withFetchWord nbits w) (by rw [State.fetch_withFetchWord, decode_of_decodeTableWord h])

/-- Settles O9: the fetch reads back the placed word, and the un-halted step runs what it decodes to. -/
theorem placedWordIsTheOneTheStepRuns : Obligations.PlacedWordIsTheOneTheStepRuns := fun s w _ =>
  ⟨(s.fetch_withFetchWord 16 w).trans (tableWord_sixteen w), fun _ => step_withFetchWord s⟩

end Sys2Proof.Machine
end

section
/-! SUPPORT. Decoding and encoding are inverse, and a word is its row's match or-ed with its fields (30_encoding.md R91 to
R102). -/

namespace Sys2Proof

/-! ### Decoding an encoded instruction -/

/-- Family 0 reads `0NNN` for every field but the two fixed words (30_encoding.md R94). -/
theorem decodeFamily0_encNNN {nnn : BitVec 12} (hcls : nnn ≠ 0x0E0#12) (hret : nnn ≠ 0x0EE#12) :
    decodeFamily0 (encNNN 0x0#4 nnn) = .sys nnn := by
  unfold decodeFamily0
  rw [fieldNNN_encNNN]
  split
  · exact absurd rfl hcls
  · exact absurd rfl hret
  · rfl

theorem wellFormed_sys_iff {nnn : BitVec 12} :
    (Instr.sys nnn).wellFormed = true ↔ nnn ≠ 0x0E0#12 ∧ nnn ≠ 0x0EE#12 := by
  simp [Instr.wellFormed]

/-- Settles O11. Each format gives its fields back, so the decoder takes the arm of the instruction's family and, where
there is one, of its sub-opcode. -/
theorem decodeOfEncodeIsIdentity : Obligations.DecodeOfEncodeIsIdentity := by
  intro i hi
  cases i with
  | cls | ret => rfl
  | sys nnn =>
    obtain ⟨hcls, hret⟩ := wellFormed_sys_iff.mp hi
    simp [encode, decode, decodeFamily0_encNNN hcls hret]
  | jp nnn | call nnn | ldI nnn | jpV0 nnn => simp [encode, decode]
  | seImm x nn | sneImm x nn | ldImm x nn | addImm x nn | rnd x nn => simp [encode, decode]
  | seReg x y | sneReg x y | drw x y n => simp [encode, decode]
  | ldReg x y | orReg x y | andReg x y | xorReg x y | addReg x y | subReg x y | shr x y | subnReg x y | shl x y =>
    simp [encode, decode, decodeFamily8]
  | skp x | sknp x => simp [encode, decode, decodeFamilyE]
  | ldVxDT x | ldVxK x | ldDTVx x | ldSTVx x | addI x | ldF x | ldB x | storeRegs x | loadRegs x =>
    simp [encode, decode, decodeFamilyF]

/-- Settles O10: fifteen closed words. -/
theorem wordsOfTheSpecDecode : Obligations.WordsOfTheSpecDecode := by
  unfold Obligations.WordsOfTheSpecDecode
  decide

/-! ### Encoding a decoded word -/

/-- The word of an ill-formed term decodes to CLS or RET, so no word decodes to the term. -/
theorem wellFormed_of_decode {w : Word} {i : Instr} (h : decode w = .ok i) : i.wellFormed = true := by
  obtain rfl := encode_of_decode h
  cases i with
  | sys nnn =>
    refine wellFormed_sys_iff.mpr ⟨?_, ?_⟩ <;> rintro rfl <;> exact absurd h (by decide)
  | _ => rfl

/-- Settles O12: `wellFormed_of_decode` and `encode_of_decode`. -/
theorem encodeOfDecodeIsIdentity : Obligations.EncodeOfDecodeIsIdentity := fun _ _ h =>
  ⟨wellFormed_of_decode h, encode_of_decode h⟩

/-! ### The match of a row and the fields in their places (30_encoding.md R102) -/

theorem shiftLeft_eight_eq_encXNN (x : Reg) : BitVec.ofNat 16 x.val <<< 8 = encXNN 0x0#4 x 0x00#8 := by
  revert x; decide

theorem shiftLeft_four_eq_encXYN (y : Reg) : BitVec.ofNat 16 y.val <<< 4 = encXYN 0x0#4 0 y 0x0#4 := by
  revert y; decide

theorem shiftLeft_eight_eq_encXYN (x : Reg) : BitVec.ofNat 16 x.val <<< 8 = encXYN 0x0#4 x 0 0x0#4 := by
  revert x; decide

theorem setWidth_eq_encNNN (nnn : BitVec 12) : nnn.setWidth 16 = encNNN 0x0#4 nnn :=
  BitVec.setWidth_eq_append (by decide)

theorem setWidth_eq_encXNN (nn : Byte) : nn.setWidth 16 = encXNN 0x0#4 0 nn :=
  BitVec.setWidth_eq_append (by decide)

theorem setWidth_eq_encXYN (n : BitVec 4) : n.setWidth 16 = encXYN 0x0#4 0 0 n :=
  BitVec.setWidth_eq_append (by decide)

@[simp] theorem regBits_zero : regBits 0 = 0x0#4 := rfl

theorem encNNN_or (op op' : BitVec 4) (nnn nnn' : BitVec 12) :
    encNNN op nnn ||| encNNN op' nnn' = encNNN (op ||| op') (nnn ||| nnn') := BitVec.or_append

theorem encXNN_or (op op' : BitVec 4) (x x' : Reg) (nn nn' : Byte) :
    encXNN op x nn ||| encXNN op' x' nn' = encXNN (op ||| op') (regBits x ||| regBits x').toFin (nn ||| nn') := by
  rw [encXNN, encXNN, encXNN, BitVec.or_append, BitVec.or_append]
  rfl

theorem encXYN_or (op op' : BitVec 4) (x x' y y' : Reg) (n n' : BitVec 4) :
    encXYN op x y n ||| encXYN op' x' y' n' =
      encXYN (op ||| op') (regBits x ||| regBits x').toFin (regBits y ||| regBits y').toFin (n ||| n') := by
  rw [encXYN, encXYN, encXYN, BitVec.or_append, BitVec.or_append, BitVec.or_append]
  rfl

theorem encNNN_eq_or (op : BitVec 4) (nnn : BitVec 12) : encNNN op nnn = encNNN op 0x000#12 ||| nnn.setWidth 16 := by
  simp [setWidth_eq_encNNN, encNNN_or]

theorem encXNN_eq_or (op : BitVec 4) (x : Reg) (nn : Byte) :
    encXNN op x nn = encXNN op 0 0x00#8 ||| (BitVec.ofNat 16 x.val <<< 8 ||| nn.setWidth 16) := by
  simp [shiftLeft_eight_eq_encXNN, setWidth_eq_encXNN, encXNN_or]

/-- The format XNN with the low byte a sub-opcode: it belongs to the row's match. -/
theorem encXNN_sub_eq_or (op : BitVec 4) (x : Reg) (nn : Byte) :
    encXNN op x nn = encXNN op 0 nn ||| BitVec.ofNat 16 x.val <<< 8 := by
  simp [shiftLeft_eight_eq_encXNN, encXNN_or]

theorem encXYN_eq_or (op : BitVec 4) (x y : Reg) (n : BitVec 4) :
    encXYN op x y n =
      encXYN op 0 0 0x0#4 ||| (BitVec.ofNat 16 x.val <<< 8 ||| BitVec.ofNat 16 y.val <<< 4 ||| n.setWidth 16) := by
  simp [shiftLeft_eight_eq_encXYN, shiftLeft_four_eq_encXYN, setWidth_eq_encXYN, encXYN_or]

/-- The format XY, whose low nibble is a sub-opcode and belongs to the row's match. -/
theorem encXYN_sub_eq_or (op : BitVec 4) (x y : Reg) (n : BitVec 4) :
    encXYN op x y n = encXYN op 0 0 n ||| (BitVec.ofNat 16 x.val <<< 8 ||| BitVec.ofNat 16 y.val <<< 4) := by
  simp [shiftLeft_eight_eq_encXYN, shiftLeft_four_eq_encXYN, encXYN_or]

/-- The `match` column of a row is the row's word with every field 0, so or-ing the shifted fields gives the word. -/
theorem encode_eq_rowMatch_or (i : Instr) : encode i = i.rowMatch ||| i.operandBits := by
  cases i with
  | cls | ret => rfl
  | sys nnn | jp nnn | call nnn | ldI nnn | jpV0 nnn => exact encNNN_eq_or _ nnn
  | seImm x nn | sneImm x nn | ldImm x nn | addImm x nn | rnd x nn => exact encXNN_eq_or _ x nn
  | seReg x y | sneReg x y | ldReg x y | orReg x y | andReg x y | xorReg x y | addReg x y | subReg x y | shr x y
  | subnReg x y | shl x y => exact encXYN_sub_eq_or _ x y _
  | drw x y n => exact encXYN_eq_or _ x y n
  | skp x | sknp x | ldVxDT x | ldVxK x | ldDTVx x | ldSTVx x | addI x | ldF x | ldB x | storeRegs x | loadRegs x =>
    exact encXNN_sub_eq_or _ x _

/-- Settles O13: `encode_eq_rowMatch_or`; the two bytes are those of `wordBytes`. -/
theorem encodingIsMatchOrFields : Obligations.EncodingIsMatchOrFields := fun i => ⟨encode_eq_rowMatch_or i, rfl⟩

/-! ### The selecting fields of an encoded word as numbers -/

theorem toNat_encNNN_div (op : BitVec 4) (nnn : BitVec 12) : (encNNN op nnn).toNat / 4096 = op.toNat := by
  rw [← toNat_fieldF, fieldF_encNNN]

theorem toNat_encNNN_mod (op : BitVec 4) (nnn : BitVec 12) : (encNNN op nnn).toNat % 4096 = nnn.toNat := by
  rw [← toNat_fieldNNN, fieldNNN_encNNN]

theorem toNat_encNNN_zero (nnn : BitVec 12) : (encNNN 0x0#4 nnn).toNat = nnn.toNat := by
  have hfamily : (encNNN 0x0#4 nnn).toNat / 4096 = 0 := toNat_encNNN_div _ nnn
  have hfield := toNat_encNNN_mod 0x0#4 nnn
  omega

theorem toNat_encXNN_div (op : BitVec 4) (x : Reg) (nn : Byte) : (encXNN op x nn).toNat / 4096 = op.toNat := by
  rw [← toNat_fieldF, fieldF_encXNN]

theorem toNat_encXNN_mod (op : BitVec 4) (x : Reg) (nn : Byte) : (encXNN op x nn).toNat % 256 = nn.toNat := by
  rw [← toNat_fieldNN, fieldNN_encXNN]

theorem toNat_encXYN_div (op : BitVec 4) (x y : Reg) (n : BitVec 4) : (encXYN op x y n).toNat / 4096 = op.toNat := by
  rw [← toNat_fieldF, fieldF_encXYN]

theorem toNat_encXYN_mod (op : BitVec 4) (x y : Reg) (n : BitVec 4) : (encXYN op x y n).toNat % 16 = n.toNat := by
  rw [← toNat_fieldN, fieldN_encXYN]

theorem fieldF_eq_iff {w : Word} {f : BitVec 4} : fieldF w = f ↔ w.toNat / 4096 = f.toNat := by
  rw [← toNat_fieldF, BitVec.toNat_inj]

theorem fieldN_eq_iff {w : Word} {n : BitVec 4} : fieldN w = n ↔ w.toNat % 16 = n.toNat := by
  rw [← toNat_fieldN, BitVec.toNat_inj]

theorem fieldNN_eq_iff {w : Word} {nn : Byte} : fieldNN w = nn ↔ w.toNat % 256 = nn.toNat := by
  rw [← toNat_fieldNN, BitVec.toNat_inj]

end Sys2Proof
end

section
/-! SUPPORT. The table of illegal words is what the decoder does not execute (30_encoding.md R96, R97), and what a step does
with a word the table lists, with any other word, and with its status (30_encoding.md R90). -/

namespace Sys2Proof.Machine

/-! ### The words the decoder executes -/

/-- The table lists no word of an executable instruction, and every word of the row `0NNN`. -/
theorem illegalWord_encode {i : Instr} (hi : i.wellFormed = true) : illegalWord (encode i) = !i.executable := by
  cases i with
  | cls | ret => rfl
  | sys nnn =>
    obtain ⟨hcls, hret⟩ := wellFormed_sys_iff.mp hi
    have hcls : nnn.toNat ≠ 0x0E0 := fun h => hcls (BitVec.eq_of_toNat_eq h)
    have hret : nnn.toNat ≠ 0x0EE := fun h => hret (BitVec.eq_of_toNat_eq h)
    have hlt : nnn.toNat < 4096 := nnn.isLt
    simp [illegalWord, encode, toNat_encNNN_zero, hlt, hcls, hret, Instr.executable]
  | jp nnn | call nnn | ldI nnn | jpV0 nnn => simp [illegalWord, encode, toNat_encNNN_div, Instr.executable]
  | seImm x nn | sneImm x nn | ldImm x nn | addImm x nn | rnd x nn =>
    simp [illegalWord, encode, toNat_encXNN_div, Instr.executable]
  | drw x y n => simp [illegalWord, encode, toNat_encXYN_div, Instr.executable]
  | seReg x y | sneReg x y | ldReg x y | orReg x y | andReg x y | xorReg x y | addReg x y | subReg x y | shr x y
  | subnReg x y | shl x y => simp [illegalWord, encode, toNat_encXYN_div, toNat_encXYN_mod, Instr.executable]
  | skp x | sknp x | ldVxDT x | ldVxK x | ldDTVx x | ldSTVx x | addI x | ldF x | ldB x | storeRegs x | loadRegs x =>
    simp [illegalWord, encode, toNat_encXNN_div, toNat_encXNN_mod, Instr.executable]

/-- A nonzero low nibble is illegal in families 5 and 9 (30_encoding.md R97). -/
theorem illegalWord_of_fieldN_ne_zero {w : Word} (hf : fieldF w = 0x5#4 ∨ fieldF w = 0x9#4) (hn : fieldN w ≠ 0x0#4) :
    illegalWord w = true := by
  rw [Ne, fieldN_eq_iff, BitVec.toNat_ofNat] at hn
  rw [fieldF_eq_iff, fieldF_eq_iff] at hf
  obtain hf | hf := hf <;> simpa [illegalWord, hf] using hn

theorem illegalWord_of_decodeFamily8_error {w : Word} {e : DecodeError} (hf : fieldF w = 0x8#4)
    (h : decodeFamily8 w = .error e) : e = .unknownOpcode w ∧ illegalWord w = true := by
  unfold decodeFamily8 at h
  split at h <;> cases h
  have hnibble := nibble_cases (fieldN w)
  exact ⟨rfl, by simp_all [illegalWord, fieldF_eq_iff, fieldN_eq_iff, or_assoc]⟩

theorem illegalWord_of_decodeFamilyE_error {w : Word} {e : DecodeError} (hf : fieldF w = 0xE#4)
    (h : decodeFamilyE w = .error e) : e = .unknownOpcode w ∧ illegalWord w = true := by
  unfold decodeFamilyE at h
  split at h <;> cases h
  exact ⟨rfl, by simp_all [illegalWord, fieldF_eq_iff, fieldNN_eq_iff]⟩

theorem illegalWord_of_decodeFamilyF_error {w : Word} {e : DecodeError} (hf : fieldF w = 0xF#4)
    (h : decodeFamilyF w = .error e) : e = .unknownOpcode w ∧ illegalWord w = true := by
  unfold decodeFamilyF at h
  split at h <;> cases h
  exact ⟨rfl, by simp_all [illegalWord, fieldF_eq_iff, fieldNN_eq_iff]⟩

/-- A word outside the opcode map is rejected under its own value, and the table lists it. -/
theorem illegalWord_of_decode_error {w : Word} {e : DecodeError} (h : decode w = .error e) :
    e = .unknownOpcode w ∧ illegalWord w = true := by
  unfold decode at h
  split at h
  case h_6 hf =>
    split at h <;> cases h
    next hn => exact ⟨rfl, illegalWord_of_fieldN_ne_zero (.inl hf) hn⟩
  case h_10 hf =>
    split at h <;> cases h
    next hn => exact ⟨rfl, illegalWord_of_fieldN_ne_zero (.inr hf) hn⟩
  case h_9 hf => exact illegalWord_of_decodeFamily8_error hf h
  case h_15 hf => exact illegalWord_of_decodeFamilyE_error hf h
  case h_16 hf => exact illegalWord_of_decodeFamilyF_error hf h
  case h_17 =>
    have hnibble := nibble_cases (fieldF w)
    simp_all
  all_goals cases h

/-- Settles O14: a decoded word is the word of its instruction, which the table lists exactly for `0NNN`; the table lists
every rejected word. -/
theorem illegalWordsAreExactlyTheTable : Obligations.IllegalWordsAreExactlyTheTable := by
  intro w
  cases hd : decode w with
  | ok i =>
    obtain rfl := encode_of_decode hd
    simp [illegalWord_encode (wellFormed_of_decode hd)]
  | error e =>
    obtain ⟨rfl, hill⟩ := illegalWord_of_decode_error hd
    simp [hill]

/-! ### The step -/

/-- Settles O15: an illegal word is rejected, or it is an `0NNN`, whose execution is the same error entry under the word
itself. -/
theorem illegalWordRaisesUnknownOpcode : Obligations.IllegalWordRaisesUnknownOpcode := by
  intro s hhalt hill
  cases hd : decode s.fetch with
  | error e => exact step_of_decode_error hhalt hd
  | ok i =>
    have hword : encode i = s.fetch := encode_of_decode hd
    have hexec : i.executable = false := by
      simpa [← hword, illegalWord_encode (wellFormed_of_decode hd)] using hill
    cases i with
    | sys nnn => rw [step_of_decode_ok hhalt hd, ← hword]; rfl
    | _ => cases hexec

/-- Every instruction answers a next state, from any state (60_exceptions.md R206, R208). -/
theorem exec_total (i : Instr) (s : State) : ∃ t, exec i s = .next t := by
  cases i with
  | ret =>
    by_cases hs : 0 < s.sp.val
    · exact ⟨_, exec_ret_of_pos hs⟩
    · exact ⟨_, exec_ret_of_empty hs⟩
  | call nnn =>
    by_cases hs : s.sp.val < 16
    · exact ⟨_, exec_call_of_lt nnn hs⟩
    · exact ⟨_, exec_call_of_full nnn hs⟩
  | ldVxK x =>
    cases hk : s.awaitedKey with
    | some k => exact ⟨_, exec_ldVxK_of_some x hk⟩
    | none => exact ⟨_, exec_ldVxK_of_none x hk⟩
  | _ => exact ⟨_, rfl⟩

/-- Settles O54: a halted step, an instruction's step (`exec_total`) and an error entry. -/
theorem everyStepHasANextState : Obligations.EveryStepHasANextState := by
  intro s
  cases hhalt : s.halt with
  | true => exact ⟨s, step_of_halted hhalt⟩
  | false =>
    cases hd : decode s.fetch with
    | ok i => exact step_of_decode_ok hhalt hd ▸ exec_total i s
    | error e => exact ⟨_, step_of_decode_error hhalt hd⟩

/-- Settles O5: the three equations of the step, the word read being the fetch. -/
theorem stepRunsTheFetchedInstruction : Obligations.StepRunsTheFetchedInstruction := fun _ =>
  ⟨step_of_halted, fun hhalt _ => step_of_decode_ok hhalt, fun hhalt _ => step_of_decode_error hhalt⟩

/-- Once booted, the system's `Step` is the engine's, with the status of the state it leaves (30_encoding.md R90). -/
theorem System.apply_step {sys : System} {t : State} (hbooted : sys.phase ≠ .unbooted) (h : step sys.core = .next t) :
    sys.apply .step = some (⟨t, .running⟩, .status (stepStatus t)) := by
  obtain ⟨core, phase⟩ := sys
  cases phase with
  | unbooted => exact absurd rfl hbooted
  | fresh | running => simp [System.apply, h]

/-- Settles O6: `System.apply_step`, with the status written out. -/
theorem stepAnswersItsStatus : Obligations.StepAnswersItsStatus := fun _ _ => System.apply_step

end Sys2Proof.Machine
end

section
/-! SUPPORT. Control transfer (40_flow.md): the equations of SYS, JP and JP V0, a return after a call, and a jump to its
own address. -/

namespace Sys2Proof.Machine

/-! ### The transfers with one outcome -/

theorem exec_sys (n : BitVec 12) (s : State) :
    exec (.sys n) s = .next (s.raise .unknownOpcode (encode (.sys n))) := rfl

theorem exec_jp (n : BitVec 12) (s : State) : exec (.jp n) s = .next (s.jump (n.setWidth 16)) := rfl

theorem exec_jpV0 (n : BitVec 12) (s : State) :
    exec (.jpV0 n) s = .next (s.jump (n.setWidth 16 + (s.reg 0).setWidth 16)) := rfl

theorem State.jump_pc_self (s : State) : s.jump s.pc = s := rfl

/-- The number of a jump target is the field `NNN` (40_flow.md R122, R123). -/
theorem toNat_target (n : BitVec 12) : (n.setWidth 16 : Word).toNat = n.toNat :=
  BitVec.toNat_setWidth_of_le (by decide)

/-- `NNN + V0` is at most 0x10FE, so the 16-bit sum does not wrap (40_flow.md R124). -/
theorem toNat_target_add (n : BitVec 12) (b : Byte) :
    (n.setWidth 16 + b.setWidth 16 : Word).toNat = n.toNat + b.toNat := by
  have hb : (b.setWidth 16 : Word).toNat = b.toNat := BitVec.toNat_setWidth_of_le (by decide)
  rw [BitVec.toNat_add, toNat_target, hb]
  exact Nat.mod_eq_of_lt (by omega)

/-- Settles O17: the two excluded fields are those that make `0NNN` ill formed. -/
theorem sysAlwaysRaisesUnknownOpcode : Obligations.SysAlwaysRaisesUnknownOpcode := fun nnn hcls hret =>
  ⟨decodeOfEncodeIsIdentity (.sys nnn) (wellFormed_sys_iff.mpr ⟨hcls, hret⟩), exec_sys nnn⟩

/-- Settles O18: `exec_jp` and the number of its target. -/
theorem jumpSetsPcToTarget : Obligations.JumpSetsPcToTarget := fun nnn =>
  ⟨decodeOfEncodeIsIdentity (.jp nnn) rfl, fun s => ⟨_, exec_jp nnn s, rfl, toNat_target nnn⟩⟩

/-- Settles O20: `exec_jpV0`, whose sum does not wrap (`toNat_target_add`). -/
theorem jumpWithOffsetAddsV0 : Obligations.JumpWithOffsetAddsV0 := fun nnn =>
  ⟨decodeOfEncodeIsIdentity (.jpV0 nnn) rfl, fun s => ⟨_, exec_jpV0 nnn s, rfl, toNat_target_add nnn (s.reg 0)⟩⟩

/-- Settles O60: the step runs the jump, whose target is the `PC` the state already has. -/
theorem jumpToItselfChangesNothing : Obligations.JumpToItselfChangesNothing := by
  rintro s ⟨hhalt, nnn, hdecode, htarget⟩
  rw [step_of_decode_ok hhalt hdecode, exec_jp, htarget, State.jump_pc_self]

/-! ### The return stack -/

/-- Settles O19: the two outcomes of CALL. -/
theorem callPushesNextAddressOrOverflows : Obligations.CallPushesNextAddressOrOverflows := by
  refine fun nnn => ⟨decodeOfEncodeIsIdentity (.call nnn) rfl, fun s => ⟨fun hfull => ?_, fun hroom => ?_⟩⟩
  · exact exec_call_of_full nnn (by omega)
  · refine ⟨_, exec_call_of_lt nnn hroom, rfl, rfl, toNat_target nnn, fun k => ?_⟩
    simp [Vector.getElem_set, State.npc, eq_comm]

/-- Settles O16: the two outcomes of RET. -/
theorem retPopsOrUnderflows : Obligations.RetPopsOrUnderflows := by
  refine ⟨decodeOfEncodeIsIdentity .ret rfl, fun s => ⟨fun hempty => ?_, fun hpos => ?_⟩⟩
  · exact exec_ret_of_empty (by omega)
  · refine ⟨_, exec_ret_of_pos hpos, rfl, Nat.sub_add_cancel hpos, ?_⟩
    exact Vector.getElem?_eq_getElem (by omega)

/-- A return after a call: the address pushed is the one popped, and its slot keeps it (40_flow.md R120, R123). -/
theorem exec_ret_after_call {s t : State} {n : BitVec 12} (hs : s.sp.val < 16) (h : exec (.call n) s = .next t) :
    exec .ret t = .next { s with stack := s.stack.set s.sp.val s.npc, pc := s.npc } := by
  obtain rfl := Host.Outcome.next.inj ((exec_call_of_lt n hs).symm.trans h)
  rw [exec_ret_of_pos (Nat.succ_pos _)]
  simp

/-- Settles O21: `exec_ret_after_call`; a slot other than the one pushed to is as before. -/
theorem returnUndoesCall : Obligations.ReturnUndoesCall := fun _ nnn hs =>
  have hcall := exec_call_of_lt nnn hs
  ⟨_, _, hcall, exec_ret_after_call hs hcall, rfl, fun _ hk => Vector.getElem_set_ne hs _ hk.symm⟩

end Sys2Proof.Machine
end

section
/-! SUPPORT. The conditional skips (41_skip.md): the one `PC` a skip can change, the two skips of each comparison, and the
low nibble that families 5 and 9 check. -/

namespace Sys2Proof.Machine

/-! ### The next address of a skip -/

/-- A taken skip ends 4 above its own address (41_skip.md, before R130). -/
theorem State.npc_add_two (s : State) : s.npc + 2#16 = s.pc + 4#16 := by
  simp [State.npc, BitVec.add_assoc]

/-- A skip on a test that decides `p`. -/
theorem State.skipIf_of_iff {c : Bool} {p : Prop} [Decidable p] (s : State) (h : c = true ↔ p) :
    s.skipIf c = { s with pc := if p then s.pc + 4#16 else s.pc + 2#16 } := by
  rw [State.skipIf_eq, State.npc_add_two]
  simp only [h]
  rfl

/-- A skip on a test that decides the negation of `p`. -/
theorem State.skipIf_of_not_iff {c : Bool} {p : Prop} [Decidable p] (s : State) (h : c = true ↔ ¬ p) :
    s.skipIf c = { s with pc := if p then s.pc + 2#16 else s.pc + 4#16 } := by
  rw [State.skipIf_of_iff s h, ite_not]

/-! ### The six skips -/

theorem exec_seImm (x : Reg) (nn : Byte) (s : State) : exec (.seImm x nn) s = .next (s.skipIf (s.reg x == nn)) := rfl

theorem exec_sneImm (x : Reg) (nn : Byte) (s : State) : exec (.sneImm x nn) s = .next (s.skipIf (s.reg x != nn)) := rfl

theorem exec_seReg (x y : Reg) (s : State) : exec (.seReg x y) s = .next (s.skipIf (s.reg x == s.reg y)) := rfl

theorem exec_sneReg (x y : Reg) (s : State) : exec (.sneReg x y) s = .next (s.skipIf (s.reg x != s.reg y)) := rfl

theorem exec_skp (x : Reg) (s : State) : exec (.skp x) s = .next (s.skipIf (s.keyDown (s.keyOf x))) := rfl

theorem exec_sknp (x : Reg) (s : State) : exec (.sknp x) s = .next (s.skipIf (!s.keyDown (s.keyOf x))) := rfl

/-- The low nibble of `V[X]` selects the key (41_skip.md R134; the spec's decision D13). -/
theorem State.keyDown_keyOf (s : State) (x : Reg) :
    s.keyDown (s.keyOf x) = s.keys.getLsbD ((s.reg x).toNat % 16) := rfl

/-- Settles O22: the two tests are `V[X] = NN` and its negation. -/
theorem skipOnImmediateComparison : Obligations.SkipOnImmediateComparison := fun x nn =>
  ⟨decodeOfEncodeIsIdentity (.seImm x nn) rfl, decodeOfEncodeIsIdentity (.sneImm x nn) rfl, fun s =>
    ⟨by rw [exec_seImm, s.skipIf_of_iff beq_iff_eq], by rw [exec_sneImm, s.skipIf_of_not_iff bne_iff_ne]⟩⟩

/-- Families 5 and 9 raise on every low nibble but 0 (30_encoding.md R97; 41_skip.md R132, R133). -/
theorem step_of_fieldN_ne_zero {s : State} (hhalt : s.halt = false)
    (hf : fieldF s.fetch = 0x5#4 ∨ fieldF s.fetch = 0x9#4) (hn : fieldN s.fetch ≠ 0x0#4) :
    step s = .next (s.raise .unknownOpcode s.fetch) :=
  illegalWordRaisesUnknownOpcode s hhalt (illegalWord_of_fieldN_ne_zero hf hn)

/-- Settles O23: the two tests are `V[X] = V[Y]` and its negation; the fields of the fetched word give its family and its
nonzero low nibble. -/
theorem skipOnRegisterComparison : Obligations.SkipOnRegisterComparison := by
  refine fun x y => ⟨decodeOfEncodeIsIdentity (.seReg x y) rfl, decodeOfEncodeIsIdentity (.sneReg x y) rfl, ?_, fun s =>
    ⟨by rw [exec_seReg, s.skipIf_of_iff beq_iff_eq], by rw [exec_sneReg, s.skipIf_of_not_iff bne_iff_ne]⟩⟩
  intro n s hn hhalt hfetch
  have hword : s.fetch = encXYN 0x5#4 x y n ∨ s.fetch = encXYN 0x9#4 x y n := hfetch
  obtain hword | hword := hword <;>
    exact step_of_fieldN_ne_zero hhalt (by simp [hword]) (by simpa [hword] using hn)

/-- Settles O24: the two tests are the state of key `V[X] mod 16` and its negation. -/
theorem skipOnKeyState : Obligations.SkipOnKeyState := fun x =>
  ⟨decodeOfEncodeIsIdentity (.skp x) rfl, decodeOfEncodeIsIdentity (.sknp x) rfl, fun s =>
    ⟨by rw [exec_skp, s.skipIf_of_iff Iff.rfl, s.keyDown_keyOf],
      by rw [exec_sknp, s.skipIf_of_not_iff Bool.not_iff_not, s.keyDown_keyOf]⟩⟩

end Sys2Proof.Machine
end

section
/-! SUPPORT. Loads, arithmetic, logic, shifts and random (42_alu.md): the equation of each instruction, the flags and
results as numbers, and what a register holds after the two orders of writing result and flag. -/

namespace Sys2Proof.Machine

/-! ### The twelve instructions -/

theorem exec_ldImm (x : Reg) (nn : Byte) (s : State) : exec (.ldImm x nn) s = .next (s.setReg x nn).advance := rfl

theorem exec_addImm (x : Reg) (nn : Byte) (s : State) :
    exec (.addImm x nn) s = .next (s.setReg x (s.reg x + nn)).advance := rfl

theorem exec_ldReg (x y : Reg) (s : State) : exec (.ldReg x y) s = .next (s.setReg x (s.reg y)).advance := rfl

theorem exec_orReg (x y : Reg) (s : State) :
    exec (.orReg x y) s = .next (s.setReg x (s.reg x ||| s.reg y)).advance := rfl

theorem exec_andReg (x y : Reg) (s : State) :
    exec (.andReg x y) s = .next (s.setReg x (s.reg x &&& s.reg y)).advance := rfl

theorem exec_xorReg (x y : Reg) (s : State) :
    exec (.xorReg x y) s = .next (s.setReg x (s.reg x ^^^ s.reg y)).advance := rfl

theorem exec_addReg (x y : Reg) (s : State) : exec (.addReg x y) s =
    .next (s.resultThenFlag x (s.reg x + s.reg y) (carryFlag (s.reg x) (s.reg y))).advance := rfl

theorem exec_subReg (x y : Reg) (s : State) : exec (.subReg x y) s =
    .next (s.resultThenFlag x (s.reg x - s.reg y) (noBorrowFlag (s.reg x) (s.reg y))).advance := rfl

theorem exec_subnReg (x y : Reg) (s : State) : exec (.subnReg x y) s =
    .next (s.resultThenFlag x (s.reg y - s.reg x) (noBorrowFlag (s.reg y) (s.reg x))).advance := rfl

theorem exec_shr (x y : Reg) (s : State) :
    exec (.shr x y) s = .next (s.flagThenResult x (s.reg x >>> 1) (shrFlag (s.reg x))).advance := rfl

theorem exec_shl (x y : Reg) (s : State) :
    exec (.shl x y) s = .next (s.flagThenResult x (s.reg x <<< 1) (shlFlag (s.reg x))).advance := rfl

theorem exec_rnd (x : Reg) (nn : Byte) (s : State) :
    exec (.rnd x nn) s = .next (s.drawRandom.setReg x (Config.randomByte s.draws &&& nn)).advance := rfl

/-! ### The flags as numbers (10_state.md R21) -/

theorem toNat_flagByte (b : Bool) : (flagByte b).toNat = if b then 1 else 0 := by
  cases b <;> rfl

theorem toNat_carryFlag (a b : Byte) : (carryFlag a b).toNat = if a.toNat + b.toNat > 255 then 1 else 0 := by
  simp [carryFlag, toNat_flagByte]

theorem toNat_noBorrowFlag (a b : Byte) : (noBorrowFlag a b).toNat = if a.toNat ≥ b.toNat then 1 else 0 := by
  simp [noBorrowFlag, toNat_flagByte]

/-- Bit 0 is the remainder of the halving (42_alu.md R148). -/
theorem toNat_shrFlag (a : Byte) : (shrFlag a).toNat = a.toNat % 2 := by
  rw [shrFlag, toNat_flagByte, BitVec.getLsbD, Nat.testBit_zero]
  obtain hbit | hbit := Nat.mod_two_eq_zero_or_one a.toNat <;> simp [hbit]

/-- Bit 7 is what the doubling carries out (42_alu.md R150). -/
theorem toNat_shlFlag (a : Byte) : (shlFlag a).toNat = a.toNat / 128 := by
  have hbit : a.toNat / 128 = 0 ∨ a.toNat / 128 = 1 := by omega
  rw [shlFlag, toNat_flagByte, BitVec.getLsbD, Nat.testBit_eq_decide_div_mod_eq]
  obtain hbit | hbit := hbit <;> simp [hbit]

/-! ### The results as numbers -/

/-- A byte difference is the integer difference modulo 256 (42_alu.md R147, R149, R152). -/
theorem toNat_sub_cast (a b : Byte) : ((a - b).toNat : Int) = ((a.toNat : Int) - b.toNat) % 256 := by
  rw [BitVec.toNat_sub]
  omega

theorem toNat_shiftRight_one (a : Byte) : (a >>> 1).toNat = a.toNat / 2 := by
  rw [BitVec.toNat_ushiftRight, Nat.shiftRight_one]

theorem toNat_shiftLeft_one (a : Byte) : (a <<< 1).toNat = a.toNat * 2 % 256 := by
  rw [BitVec.toNat_shiftLeft, Nat.shiftLeft_eq]

/-! ### What a register holds after the writes -/

theorem toNat_reg_setReg (s : State) (x r : Reg) (b : Byte) :
    ((s.setReg x b).reg r).toNat = if r = x then b.toNat else (s.reg r).toNat := by
  rw [State.reg_setReg, apply_ite BitVec.toNat]

theorem getLsbD_reg_setReg (s : State) (x r : Reg) (b : Byte) (k : Nat) :
    ((s.setReg x b).reg r).getLsbD k = if r = x then b.getLsbD k else (s.reg r).getLsbD k := by
  rw [State.reg_setReg, apply_ite (BitVec.getLsbD · k)]

/-- The flag is written last and survives in `VF` (the spec's decision D4). -/
theorem toNat_reg_resultThenFlag (s : State) (x r : Reg) (result flag : Byte) :
    ((s.resultThenFlag x result flag).reg r).toNat =
      if r = 15 then flag.toNat else if r = x then result.toNat else (s.reg r).toNat := by
  rw [State.reg_resultThenFlag, apply_ite BitVec.toNat, apply_ite BitVec.toNat, vf]

/-- The result is written last and survives in `VF` (the spec's decision D4). -/
theorem toNat_reg_flagThenResult (s : State) (x r : Reg) (result flag : Byte) :
    ((s.flagThenResult x result flag).reg r).toNat =
      if r = x then result.toNat else if r = 15 then flag.toNat else (s.reg r).toNat := by
  rw [State.reg_flagThenResult, apply_ite BitVec.toNat, apply_ite BitVec.toNat, vf]

/-- The registers after either subtraction `a - b` into `x` (42_alu.md R147, R149). -/
theorem toNat_reg_subtract (s : State) (x r : Reg) (a b : Byte) :
    (((s.resultThenFlag x (a - b) (noBorrowFlag a b)).reg r).toNat : Int) =
      if r = 15 then (if a.toNat ≥ b.toNat then 1 else 0)
      else if r = x then ((a.toNat : Int) - b.toNat) % 256 else ((s.reg r).toNat : Int) := by
  rw [toNat_reg_resultThenFlag, toNat_noBorrowFlag, ← toNat_sub_cast]
  push_cast
  rfl

/-! ### Loads, and the arithmetic that leaves the flag alone -/

/-- Settles O25: both loads write the one register `X`. -/
theorem loadRegisterFromImmediateOrRegister : Obligations.LoadRegisterFromImmediateOrRegister := fun x y nn =>
  ⟨decodeOfEncodeIsIdentity (.ldImm x nn) rfl, decodeOfEncodeIsIdentity (.ldReg x y) rfl, fun s =>
    ⟨⟨_, exec_ldImm x nn s, rfl, fun r => s.reg_setReg x r nn⟩,
      ⟨_, exec_ldReg x y s, rfl, fun r => s.reg_setReg x r (s.reg y)⟩⟩⟩

/-- Settles O26: the sum of bytes is the sum modulo 256, and only `X` is written. -/
theorem addImmediateWrapsWithoutFlag : Obligations.AddImmediateWrapsWithoutFlag := by
  refine fun x nn => ⟨decodeOfEncodeIsIdentity (.addImm x nn) rfl, fun s => ⟨_, exec_addImm x nn s, rfl, fun r => ?_⟩⟩
  rw [State.reg_advance, toNat_reg_setReg, BitVec.toNat_add]

/-- Settles O27: only `X` is written, and each bit of it is the connective of the two old bits. -/
theorem logicLeavesTheFlagAlone : Obligations.LogicLeavesTheFlagAlone := by
  refine fun x y => ⟨decodeOfEncodeIsIdentity (.orReg x y) rfl, decodeOfEncodeIsIdentity (.andReg x y) rfl,
    decodeOfEncodeIsIdentity (.xorReg x y) rfl, fun s => ⟨⟨_, exec_orReg x y s, rfl, fun r k => ?_⟩,
      ⟨_, exec_andReg x y s, rfl, fun r k => ?_⟩, ⟨_, exec_xorReg x y s, rfl, fun r k => ?_⟩⟩⟩
  · rw [State.reg_advance, getLsbD_reg_setReg, BitVec.getLsbD_or]
  · rw [State.reg_advance, getLsbD_reg_setReg, BitVec.getLsbD_and]
  · rw [State.reg_advance, getLsbD_reg_setReg, BitVec.getLsbD_xor]

/-! ### Arithmetic with the flag last -/

/-- Settles O28: the order of writing is `toNat_reg_resultThenFlag`, the flag `toNat_carryFlag`. -/
theorem addWritesSumThenCarry : Obligations.AddWritesSumThenCarry := by
  refine fun x y => ⟨decodeOfEncodeIsIdentity (.addReg x y) rfl, fun s => ⟨_, exec_addReg x y s, rfl, fun r => ?_⟩⟩
  rw [State.reg_advance, toNat_reg_resultThenFlag, toNat_carryFlag, BitVec.toNat_add]

/-- Settles O29: `toNat_reg_subtract` for `V[X] - V[Y]`. -/
theorem subWritesDifferenceThenNoBorrow : Obligations.SubWritesDifferenceThenNoBorrow := fun x y =>
  ⟨decodeOfEncodeIsIdentity (.subReg x y) rfl, fun s =>
    ⟨_, exec_subReg x y s, rfl, fun r => toNat_reg_subtract s x r (s.reg x) (s.reg y)⟩⟩

/-- Settles O30: `toNat_reg_subtract` for `V[Y] - V[X]`. -/
theorem subnWritesReverseDifferenceThenNoBorrow : Obligations.SubnWritesReverseDifferenceThenNoBorrow := fun x y =>
  ⟨decodeOfEncodeIsIdentity (.subnReg x y) rfl, fun s =>
    ⟨_, exec_subnReg x y s, rfl, fun r => toNat_reg_subtract s x r (s.reg y) (s.reg x)⟩⟩

/-! ### Shifts, with the result last -/

/-- Settles O31: the order of writing is `toNat_reg_flagThenResult`; quotient and remainder of the halving. -/
theorem shiftRightWritesFlagThenHalf : Obligations.ShiftRightWritesFlagThenHalf := by
  refine fun x y => ⟨decodeOfEncodeIsIdentity (.shr x y) rfl, fun s => ⟨_, exec_shr x y s, rfl, fun r => ?_⟩⟩
  rw [State.reg_advance, toNat_reg_flagThenResult, toNat_shiftRight_one, toNat_shrFlag]

/-- Settles O32: the order of writing is `toNat_reg_flagThenResult`; the doubling and the bit it carries out. -/
theorem shiftLeftWritesFlagThenDouble : Obligations.ShiftLeftWritesFlagThenDouble := by
  refine fun x y => ⟨decodeOfEncodeIsIdentity (.shl x y) rfl, fun s => ⟨_, exec_shl x y s, rfl, fun r => ?_⟩⟩
  rw [State.reg_advance, toNat_reg_flagThenResult, toNat_shiftLeft_one, toNat_shlFlag]

/-! ### Random -/

/-- Settles O33: `X` receives the masked byte, and a bit that is 0 in the mask is 0 in it. -/
theorem randomByteIsMasked : Obligations.RandomByteIsMasked := by
  refine fun x nn => ⟨decodeOfEncodeIsIdentity (.rnd x nn) rfl, fun s =>
    ⟨_, exec_rnd x nn s, rfl, fun r => s.drawRandom.reg_setReg x r _, fun k hk => ?_⟩⟩
  rw [State.reg_advance, getLsbD_reg_setReg, if_pos rfl, BitVec.getLsbD_and, hk, Bool.and_false]

end Sys2Proof.Machine
end

section
/-! SUPPORT. The index register and memory (43_index_memory.md): the equation of each instruction, the new index as a
number, and what memory reads as after a run of bytes is stored. -/

namespace Sys2Proof.Machine

/-! ### The six instructions -/

theorem exec_ldI (nnn : BitVec 12) (s : State) : exec (.ldI nnn) s = .next (s.setI (nnn.setWidth 16)).advance := rfl

theorem exec_addI (x : Reg) (s : State) :
    exec (.addI x) s = .next (s.setI (s.i + (s.reg x).setWidth 16)).advance := rfl

theorem exec_ldF (x : Reg) (s : State) :
    exec (.ldF x) s = .next (s.setI ((s.reg x).setWidth 16 * 5#16)).advance := rfl

theorem exec_ldB (x : Reg) (s : State) :
    exec (.ldB x) s = .next (s.memWriteList (s.indexed 0) (decimalDigits (s.reg x))).advance := rfl

theorem exec_storeRegs (x : Reg) (s : State) :
    exec (.storeRegs x) s = .next ((s.memWriteList (s.indexed 0) (s.regsUpTo x)).bumpI x).advance := rfl

theorem exec_loadRegs (x : Reg) (s : State) :
    exec (.loadRegs x) s = .next ((s.loadRegsFrom (s.indexed 0) x).bumpI x).advance := rfl

/-! ### The new index as a number (10_state.md R24) -/

theorem toNat_setWidth_byte (b : Byte) : (b.setWidth 16 : Word).toNat = b.toNat :=
  BitVec.toNat_setWidth_of_le (by decide)

theorem toNat_index_add (w : Word) (b : Byte) : (w + b.setWidth 16).toNat = (w.toNat + b.toNat) % 65536 := by
  rw [BitVec.toNat_add, toNat_setWidth_byte]

/-- Five times a byte is at most 1275, so the product does not wrap (43_index_memory.md R162). -/
theorem toNat_index_mul_five (b : Byte) : (b.setWidth 16 * 5#16 : Word).toNat = b.toNat * 5 := by
  rw [BitVec.toNat_mul, toNat_setWidth_byte]
  exact Nat.mod_eq_of_lt (by rw [BitVec.toNat_ofNat]; omega)

theorem State.toNat_i_bumpI (s : State) (x : Reg) : (s.bumpI x).i.toNat = (s.i.toNat + x.val + 1) % 65536 := by
  rw [State.bumpI, State.i_setI, BitVec.toNat_add, BitVec.toNat_ofNat, Nat.add_mod_mod, Nat.add_assoc]

/-- Settles O34: the index is the field, zero extended (`toNat_target`). -/
theorem loadIndexZeroExtends : Obligations.LoadIndexZeroExtends := fun nnn =>
  ⟨decodeOfEncodeIsIdentity (.ldI nnn) rfl, fun s => ⟨_, exec_ldI nnn s, rfl, toNat_target nnn⟩⟩

/-- Settles O35: the 16-bit sum is the sum modulo 65536. -/
theorem addToIndexWrapsAtSixteenBits : Obligations.AddToIndexWrapsAtSixteenBits := fun x =>
  ⟨decodeOfEncodeIsIdentity (.addI x) rfl, fun s => ⟨_, exec_addI x s, rfl, toNat_index_add s.i (s.reg x)⟩⟩

/-- Settles O36: the product does not wrap (`toNat_index_mul_five`). -/
theorem glyphAddressIsFiveTimesRegister : Obligations.GlyphAddressIsFiveTimesRegister := fun x =>
  ⟨decodeOfEncodeIsIdentity (.ldF x) rfl, fun s => ⟨_, exec_ldF x s, rfl, toNat_index_mul_five (s.reg x)⟩⟩

/-! ### Addresses on from the index (20_memory.md R67) -/

theorem State.indexed_zero_add (s : State) (k : Nat) : s.indexed 0 + k = s.indexed k := rfl

theorem State.indexed_congr {s t : State} (h : t.i = s.i) (k : Nat) : t.indexed k = s.indexed k := by
  rw [State.indexed, State.indexed, h]

/-! ### Memory after a run of bytes is stored (20_memory.md R63) -/

@[simp] theorem State.memRead_advance (s : State) (a : Nat) : s.advance.memRead a = s.memRead a := rfl

@[simp] theorem State.memRead_bumpI (s : State) (x : Reg) (a : Nat) : (s.bumpI x).memRead a = s.memRead a := rfl

section
variable {bs : List Byte} (hlen : bs.length ≤ 4096) (s : State)
include hlen

/-- The run does not meet itself around the top of memory, so each byte of it is read back. -/
theorem State.memRead_memWriteList_indexed {k : Nat} (hk : k < bs.length) :
    (s.memWriteList (s.indexed 0) bs).memRead (s.indexed k) = bs[k] := by
  have hoffset : (s.indexed k + 4096 - s.indexed 0 % 4096) % 4096 = k := by
    rw [← s.indexed_zero_add k]
    omega
  simp [State.memRead_memWriteList bs hlen, hoffset, hk]

/-- An address that meets none of the run reads as before. -/
theorem State.memRead_memWriteList_of_ne_indexed {a : Nat} (ha : ∀ k < bs.length, a % 4096 ≠ s.indexed k % 4096) :
    (s.memWriteList (s.indexed 0) bs).memRead a = s.memRead a := by
  rw [State.memRead_memWriteList bs hlen, dif_neg]
  intro hk
  apply ha _ hk
  rw [← s.indexed_zero_add]
  omega

end

/-! ### The decimal digits (43_index_memory.md R163) -/

/-- A run of three bytes is shorter than memory. -/
theorem length_decimalDigits_le (b : Byte) : (decimalDigits b).length ≤ 4096 :=
  show 3 ≤ 4096 by decide

/-- The number at `I + k` is the digit stored there, which fits its byte. -/
theorem State.toNat_memRead_decimalDigit (s : State) {b : Byte} {k d : Nat} (hk : k < (decimalDigits b).length)
    (hd : d < 10) (hdigit : (decimalDigits b)[k] = BitVec.ofNat 8 d) :
    ((s.memWriteList (s.indexed 0) (decimalDigits b)).memRead (s.indexed k)).toNat = d := by
  rw [s.memRead_memWriteList_indexed (length_decimalDigits_le b) hk, hdigit, BitVec.toNat_ofNat]
  omega

/-- Settles O37: the three digits are the bytes stored, each below 10; `memRead_memWriteList_of_ne_indexed` is the rest
of memory. -/
theorem decimalDigitsAreStored : Obligations.DecimalDigitsAreStored := by
  refine fun x => ⟨decodeOfEncodeIsIdentity (.ldB x) rfl, fun s => ⟨_, exec_ldB x s, ?_, ?_⟩⟩
  · rw [State.memWriteList_eq]
    rfl
  · have hlt (k : Nat) (hk : k < 3) : k < (decimalDigits (s.reg x)).length := hk
    exact ⟨s.toNat_memRead_decimalDigit (hlt 0 (by decide)) (by omega) rfl,
      s.toNat_memRead_decimalDigit (hlt 1 (by decide)) (by omega) rfl,
      s.toNat_memRead_decimalDigit (hlt 2 (by decide)) (by omega) rfl,
      fun a ha => s.memRead_memWriteList_of_ne_indexed (length_decimalDigits_le _) ha⟩

/-! ### Storing and loading registers (43_index_memory.md R164, R165) -/

theorem State.length_regsUpTo (s : State) (x : Reg) : (s.regsUpTo x).length = x.val + 1 := by
  rw [State.regsUpTo, List.length_take, Vector.length_toList]
  omega

theorem State.lt_length_regsUpTo (s : State) {x r : Reg} (hr : r ≤ x) : r.val < (s.regsUpTo x).length := by
  rw [State.length_regsUpTo]
  exact Nat.lt_succ_of_le hr

/-- At most sixteen registers: the run is shorter than memory. -/
theorem State.length_regsUpTo_le (s : State) (x : Reg) : (s.regsUpTo x).length ≤ 4096 := by
  rw [State.length_regsUpTo]
  omega

theorem State.getElem_regsUpTo (s : State) {x r : Reg} (hr : r ≤ x) :
    (s.regsUpTo x)[r.val]'(s.lt_length_regsUpTo hr) = s.reg r := by
  simp [State.regsUpTo, State.reg]

/-- Settles O38: the run stored is `V[0]` to `V[X]`, and it is shorter than memory. -/
theorem storeRegistersWritesExactlyItsBytes : Obligations.StoreRegistersWritesExactlyItsBytes := by
  refine fun x => ⟨decodeOfEncodeIsIdentity (.storeRegs x) rfl, fun s => ⟨_, exec_storeRegs x s, ?_, ?_, ?_, ?_⟩⟩
  · rw [State.memWriteList_eq]
    rfl
  · rw [State.i_advance, State.toNat_i_bumpI, State.i_memWriteList]
  · intro r hr
    rw [State.memRead_advance, State.memRead_bumpI,
      s.memRead_memWriteList_indexed (s.length_regsUpTo_le x) (s.lt_length_regsUpTo hr), s.getElem_regsUpTo hr]
  · intro a ha
    refine s.memRead_memWriteList_of_ne_indexed (s.length_regsUpTo_le x) fun k hk => ?_
    rw [State.length_regsUpTo] at hk
    exact ha ⟨k, by omega⟩ (Nat.le_of_lt_succ hk)

/-- Settles O39: `State.reg_loadRegsFrom` for the registers, `State.toNat_i_bumpI` for the index. -/
theorem loadRegistersReadsItsBytes : Obligations.LoadRegistersReadsItsBytes := fun x =>
  ⟨decodeOfEncodeIsIdentity (.loadRegs x) rfl, fun s => ⟨_, exec_loadRegs x s, rfl,
    (s.loadRegsFrom (s.indexed 0) x).toNat_i_bumpI x, s.reg_loadRegsFrom (s.indexed 0) x⟩⟩

/-- Settles O40: what O39 reads is what O38 stored, at the same addresses. -/
theorem loadAfterStoreGivesRegistersBack : Obligations.LoadAfterStoreGivesRegistersBack := by
  intro s x
  obtain ⟨-, hstore⟩ := storeRegistersWritesExactlyItsBytes x
  obtain ⟨t, ht, -, -, hbytes, -⟩ := hstore s
  refine ⟨t, ht, fun w hmem hi => ?_⟩
  obtain ⟨-, hload⟩ := loadRegistersReadsItsBytes x
  obtain ⟨u, hu, -, -, hregs⟩ := hload w
  refine ⟨u, hu, fun r hr => ?_⟩
  calc u.reg r = w.memRead (w.indexed r.val) := by rw [hregs, if_pos hr]
    _ = t.memRead (s.indexed r.val) := by rw [hmem, State.indexed_congr hi]
    _ = s.reg r := hbytes r hr

end Sys2Proof.Machine
end

section
/-! SUPPORT. The display (44_display.md): the equations of CLS and DRW, the sprite's cells row by row, what a draw does to a
cell and to the flag, and the host's reading of the display. -/

namespace Sys2Proof.Machine

/-! ### The two instructions -/

theorem exec_cls (s : State) : exec .cls s = .next (s.setDisplay blankDisplay).advance := rfl

theorem exec_drw (x y : Reg) (n : BitVec 4) (s : State) : exec (.drw x y n) s =
    .next (((s.setDisplay (s.drawRows (s.spriteColumn x) (s.spriteRow y) n.toNat).1).setReg vf
      (flagByte (s.drawRows (s.spriteColumn x) (s.spriteRow y) n.toNat).2)).advance) := rfl

/-! ### Cells (10_state.md R30) -/

theorem State.cell_of_lt (s : State) (cx : Nat) {cy : Nat} (hcy : cy < 32) : s.cell cx cy = s.disp[cy].getMsbD cx :=
  dif_pos hcy

theorem State.cell_of_blank {s : State} (h : s.disp = blankDisplay) (cx cy : Nat) : s.cell cx cy = false := by
  rw [State.cell, h]
  split
  · rw [blankDisplay, Vector.getElem_replicate, BitVec.getMsbD_zero]
  · rfl

/-- Settles O41: every row is blank. -/
theorem clearTurnsEveryCellOff : Obligations.ClearTurnsEveryCellOff :=
  ⟨decodeOfEncodeIsIdentity .cls rfl, fun s => ⟨_, exec_cls s, rfl, State.cell_of_blank rfl⟩⟩

/-! ### The registers after a draw (10_state.md R21) -/

theorem State.reg_drawn (s : State) (d : Vector Row 32) (hit : Bool) (r : Reg) :
    ((s.setDisplay d).setReg vf (flagByte hit)).advance.reg r = if r = 15 then flagByte hit else s.reg r :=
  (s.setDisplay d).reg_setReg vf r (flagByte hit)

/-! ### The cells under a sprite (44_display.md R171) -/

section
variable (s : State) (x y : Reg) (n : BitVec 4)

/-- The byte that lies in row `cy`, placed from the start column on, has its bit on in column `cx`. -/
theorem State.spriteCell_iff {cx : Nat} (cy : Nat) (hcx : cx < 64) :
    s.spriteCell x y n cx cy ↔ (s.spriteRow y ≤ cy ∧ cy < s.spriteRow y + n.toNat) ∧
      (spriteRowBits (s.spriteColumn x) (s.memRead (s.indexed (cy - s.spriteRow y)))).getMsbD cx = true := by
  rw [getMsbD_spriteRowBits _ _ hcx, Bool.and_eq_true, decide_eq_true_eq]
  constructor
  · rintro ⟨r, c, hr, hc, rfl, rfl, hbit⟩
    rw [← State.spriteColumn, ← State.spriteRow, Nat.add_sub_cancel_left, Nat.add_sub_cancel_left]
    exact ⟨⟨by omega, by omega⟩, ⟨by omega, by omega⟩, hbit⟩
  · rintro ⟨⟨hrow, hrow'⟩, ⟨hcol, hcol'⟩, hbit⟩
    exact ⟨cy - s.spriteRow y, cx - s.spriteColumn x, by omega, by omega, (Nat.add_sub_of_le hcol).symm,
      (Nat.add_sub_of_le hrow).symm, hbit⟩

/-- Drawing exclusive-ors the sprite onto the display, cell by cell. -/
theorem State.drawn_cell_ne_iff {cx cy : Nat} (hcx : cx < 64) (hcy : cy < 32) :
    (s.drawRows (s.spriteColumn x) (s.spriteRow y) n.toNat).1[cy].getMsbD cx ≠ s.cell cx cy ↔
      s.spriteCell x y n cx cy := by
  rw [s.cell_of_lt cx hcy, drawRows_row s _ _ _ _ hcy, s.spriteCell_iff x y n cy hcx]
  split
  · next hrow =>
    rw [and_iff_right hrow, BitVec.getMsbD_xor]
    cases s.disp[cy].getMsbD cx <;> simp
  · next hrow => simp [hrow]

/-- A draw collides when a cell under the sprite was on. -/
theorem State.drawn_hit_iff :
    (s.drawRows (s.spriteColumn x) (s.spriteRow y) n.toNat).2 = true ↔
      ∃ cx cy, cx < 64 ∧ cy < 32 ∧ s.spriteCell x y n cx cy ∧ s.cell cx cy = true := by
  simp only [drawRows_hit, row_ne_zero, BitVec.getMsbD_and, Bool.and_eq_true]
  constructor
  · rintro ⟨r, hr, hcy, cx, hcx, hcell, hbit⟩
    refine ⟨cx, s.spriteRow y + r, hcx, hcy, (s.spriteCell_iff x y n _ hcx).2 ⟨⟨by omega, by omega⟩, ?_⟩, ?_⟩
    · rwa [Nat.add_sub_cancel_left]
    · rwa [s.cell_of_lt cx hcy]
  · rintro ⟨cx, cy, hcx, hcy, hsprite, hcell⟩
    obtain ⟨⟨hrow, hrow'⟩, hbit⟩ := (s.spriteCell_iff x y n cy hcx).1 hsprite
    obtain ⟨r, rfl⟩ := Nat.exists_eq_add_of_le hrow
    rw [Nat.add_sub_cancel_left] at hbit
    rw [s.cell_of_lt cx hcy] at hcell
    exact ⟨r, by omega, hcy, cx, hcx, hcell, hbit⟩

end

/-- Settles O42: `State.drawn_cell_ne_iff` for the cells, `State.reg_drawn` for the registers, `State.drawn_hit_iff` for
the flag. -/
theorem drawFlipsTheSpriteCells : Obligations.DrawFlipsTheSpriteCells := by
  refine fun x y n => ⟨decodeOfEncodeIsIdentity (.drw x y n) rfl, fun s => ⟨_, exec_drw x y n s, rfl, ?_, ?_, ?_, ?_⟩⟩
  · intro cx cy hcx hcy
    rw [State.cell_of_lt _ cx hcy]
    exact s.drawn_cell_ne_iff x y n hcx hcy
  · intro r hr
    rw [State.reg_drawn, if_neg hr]
  · intro hcollision
    rw [State.reg_drawn, if_pos rfl, (s.drawn_hit_iff x y n).2 hcollision]
    rfl
  · intro hnone
    rw [State.reg_drawn, if_pos rfl, Bool.eq_false_iff.2 (mt (s.drawn_hit_iff x y n).1 hnone)]
    rfl

/-! ### Drawing twice (95_test_vectors.md S6) -/

/-- Where a sprite lies depends on its two coordinate registers, `I` and memory alone. -/
theorem State.spriteCell_congr {s t : State} {x y : Reg} (hx : t.reg x = s.reg x) (hy : t.reg y = s.reg y) (hi : t.i = s.i)
    (hp : t.params = s.params) (hm : t.mem = s.mem) (n : BitVec 4) (cx cy : Nat) :
    t.spriteCell x y n cx cy ↔ s.spriteCell x y n cx cy := by
  simp only [State.spriteCell, hx, hy, hi, State.memRead_congr hp hm]

/-- Settles O43: the second draw covers the cells of the first, so each of them flips twice, and a cell it finds on is one
the first draw turned on. -/
theorem drawingTwiceRestoresTheDisplay : Obligations.DrawingTwiceRestoresTheDisplay := by
  intro s x y n hx hy
  obtain ⟨-, hdraw⟩ := drawFlipsTheSpriteCells x y n
  obtain ⟨t, ht, hframe, hcells, hregs, -, -⟩ := hdraw s
  obtain ⟨u, hu, -, hcells', -, hhit, hmiss⟩ := hdraw t
  have hsame (cx cy : Nat) : t.spriteCell x y n cx cy ↔ s.spriteCell x y n cx cy :=
    State.spriteCell_congr (hregs x hx) (hregs y hy) (by rw [hframe]) (by rw [hframe]) (by rw [hframe]) n cx cy
  have hturnedOn {cx cy : Nat} (hcx : cx < 64) (hcy : cy < 32) :
      t.spriteCell x y n cx cy ∧ t.cell cx cy = true ↔ s.cell cx cy = false ∧ t.cell cx cy = true := by
    rw [hsame, ← hcells cx cy hcx hcy]
    cases s.cell cx cy <;> simp
  refine ⟨t, u, ht, hu, fun cx cy hcx hcy => ?_, ?_⟩
  · have hflips : u.cell cx cy ≠ t.cell cx cy ↔ t.cell cx cy ≠ s.cell cx cy :=
      (hcells' cx cy hcx hcy).trans ((hsame cx cy).trans (hcells cx cy hcx hcy).symm)
    by_cases hkept : t.cell cx cy = s.cell cx cy
    · exact ((not_iff_not.1 hflips).2 hkept).trans hkept
    · exact (Bool.eq_not.2 (hflips.2 hkept)).trans (Bool.eq_not.2 (Ne.symm hkept)).symm
  · have hflag : u.reg 15 = 1#8 ↔ ∃ cx cy, cx < 64 ∧ cy < 32 ∧ t.spriteCell x y n cx cy ∧ t.cell cx cy = true :=
      ⟨fun hone => by_contra fun hnone => absurd (hone.symm.trans (hmiss hnone)) (by decide), hhit⟩
    rw [hflag]
    exact exists_congr fun cx => exists_congr fun cy => and_congr_right fun hcx => and_congr_right fun hcy =>
      hturnedOn hcx hcy

/-! ### What the host reads (44_display.md R172, 60_exceptions.md R214) -/

theorem State.length_readDisplay (s : State) : s.readDisplay.length = 2048 := by
  rw [State.readDisplay, List.length_map, List.length_range]

theorem State.getElem?_readDisplay (s : State) {cx cy : Nat} (hcx : cx < 64) (hcy : cy < 32) :
    s.readDisplay[cy * 64 + cx]? = some (s.cell cx cy) := by
  have hcol : (cy * 64 + cx) % 64 = cx := by omega
  have hrow : (cy * 64 + cx) / 64 = cy := by omega
  rw [State.readDisplay, List.getElem?_map, List.getElem?_range (by omega), Option.map_some, hcol, hrow]

/-- Once booted, the system answers every operation but `Load` in the same way, whichever the phase
(70_reset_and_hazards.md R242). -/
theorem System.apply_of_booted {sys : System} {op : Op} (hbooted : sys.phase ≠ .unbooted)
    (hload : ∀ bytes, op ≠ .load bytes) : sys.apply op = (⟨sys.core, .running⟩ : System).apply op := by
  obtain ⟨core, phase⟩ := sys
  cases phase with
  | unbooted => exact absurd rfl hbooted
  | running => rfl
  | fresh =>
    cases op with
    | load bytes => exact absurd rfl (hload bytes)
    | _ => rfl

/-- Settles O44: element `y * 64 + x` has column `x` and row `y` as its remainder and quotient by 64. -/
theorem hostReadsTheDisplayRowByRow : Obligations.HostReadsTheDisplayRowByRow := fun sys hbooted =>
  ⟨⟨_, System.apply_of_booted hbooted nofun, sys.core.length_readDisplay, fun _ _ => sys.core.getElem?_readDisplay⟩,
    System.apply_of_booted hbooted nofun⟩

end Sys2Proof.Machine
end

section
/-! SUPPORT. Timers and keys (45_timer_key.md): the equations of the three timer moves, which key ends a wait in terms of the
fresh presses, and a state whose keys have just been sampled. -/

namespace Sys2Proof.Machine

/-! ### The timer moves -/

theorem exec_ldVxDT (x : Reg) (s : State) : exec (.ldVxDT x) s = .next (s.setReg x s.dt).advance := rfl

theorem exec_ldDTVx (x : Reg) (s : State) : exec (.ldDTVx x) s = .next (s.setDT (s.reg x)).advance := rfl

theorem exec_ldSTVx (x : Reg) (s : State) : exec (.ldSTVx x) s = .next (s.setST (s.reg x)).advance := rfl

/-- `SOUND` is off exactly while `ST` is 0 (10_state.md R28). -/
theorem State.sound_iff (s : State) : s.sound = true ↔ s.st ≠ 0x00#8 := by
  rw [State.sound, decide_eq_true_eq, gt_iff_lt, Nat.pos_iff_ne_zero, ← BitVec.toNat_ne_iff_ne, BitVec.toNat_zero]

/-- Settles O45: the three equations, `State.reg_setReg` for the register that reads `DT` and `State.sound_iff` for the
output that follows `ST`. -/
theorem timerRegistersAreMoved : Obligations.TimerRegistersAreMoved := fun x =>
  ⟨decodeOfEncodeIsIdentity (.ldVxDT x) rfl, decodeOfEncodeIsIdentity (.ldDTVx x) rfl,
    decodeOfEncodeIsIdentity (.ldSTVx x) rfl, fun s =>
      ⟨⟨_, exec_ldVxDT x s, rfl, fun r => s.reg_setReg x r s.dt⟩, exec_ldDTVx x s,
        ⟨_, exec_ldSTVx x s, rfl, State.sound_iff _⟩⟩⟩

/-! ### The key that ends a wait (R181; the spec's decision D14) -/

/-- The bits of `rise` are the fresh presses. -/
theorem State.getLsbD_rise (s : State) (k : Key) : s.rise.getLsbD k.val = true ↔ s.freshPress k := by
  simp [State.rise, State.freshPress]

/-- No bit of `rise` is set exactly when no key is freshly down. -/
theorem State.rise_eq_zero_iff (s : State) : s.rise = 0#16 ↔ ∀ k, ¬ s.freshPress k := by
  constructor
  · intro hzero k
    rw [← s.getLsbD_rise, hzero, BitVec.getLsbD_zero]
    exact Bool.false_ne_true
  · intro hnone
    refine BitVec.eq_of_getLsbD_eq fun n hn => ?_
    rw [BitVec.getLsbD_zero, Bool.eq_false_iff]
    exact mt (s.getLsbD_rise ⟨n, hn⟩).1 (hnone ⟨n, hn⟩)

theorem State.awaitedKey_eq_some {s : State} {k : Key} :
    s.awaitedKey = some k ↔ s.wait = true ∧ s.freshPress k ∧ ∀ j, j < k → ¬ s.freshPress j := by
  simp [State.awaitedKey, lowestSet_eq_some, ← State.getLsbD_rise]

theorem State.awaitedKey_eq_none {s : State} :
    s.awaitedKey = none ↔ s.wait = false ∨ ∀ k, ¬ s.freshPress k := by
  cases hwait : s.wait <;> simp [State.awaitedKey, hwait, lowestSet_eq_none, State.rise_eq_zero_iff]

/-- The number of a key fits the byte `V[X]` receives. -/
theorem toNat_keyByte (k : Key) : (BitVec.ofNat 8 k.val).toNat = k.val :=
  Nat.mod_eq_of_lt (k.isLt.trans (by decide))

/-- Settles O46: the two outcomes of `FX0A`, split by `State.awaitedKey_eq_none` and `State.awaitedKey_eq_some`. -/
theorem keyWaitNeedsAFreshPress : Obligations.KeyWaitNeedsAFreshPress := by
  refine fun x => ⟨decodeOfEncodeIsIdentity (.ldVxK x) rfl, fun s => ⟨fun hnone => ?_, fun k hwait hk hlowest => ?_⟩⟩
  · exact exec_ldVxK_of_none x (State.awaitedKey_eq_none.2 hnone)
  · refine ⟨_, exec_ldVxK_of_some x (State.awaitedKey_eq_some.2 ⟨hwait, hk, hlowest⟩), rfl, fun r => ?_⟩
    rw [State.reg_advance, toNat_reg_setReg, toNat_keyByte, State.reg_sampleKeys]

/-! ### A wait with the keys just sampled (R181 (b), (e)) -/

/-- Right after the keys are sampled none of them is freshly down. -/
theorem State.not_freshPress_sampleKeys (s : State) (b : Bool) (k : Key) : ¬ (s.sampleKeys b).freshPress k := by
  rintro ⟨hdown, hup⟩
  exact Bool.false_ne_true (hup.symm.trans hdown)

theorem State.sampleKeys_sampleKeys (s : State) (b c : Bool) : (s.sampleKeys b).sampleKeys c = s.sampleKeys c := rfl

theorem State.fetch_sampleKeys (s : State) (b : Bool) : (s.sampleKeys b).fetch = s.fetch := State.fetch_congr rfl rfl rfl

theorem stepStatus_of_wait {s : State} (hhalt : s.halt = false) (hwait : s.wait = true) :
    stepStatus s = .waitingForKey := by
  simp [stepStatus, hhalt, hwait]

/-- A step at `FX0A` that no key ends. -/
theorem step_of_awaitedKey_none {s : State} {x : Reg} (hhalt : s.halt = false) (hdecode : decode s.fetch = .ok (.ldVxK x))
    (hk : s.awaitedKey = none) : step s = .next (s.sampleKeys true) :=
  (step_of_decode_ok hhalt hdecode).trans (exec_ldVxK_of_none x hk)

/-- Settles O48: both steps sample the keys and go on waiting, the first because no wait was on, the second because no key
is freshly down (`State.not_freshPress_sampleKeys`); sampling the same keys again changes nothing. -/
theorem waitGoesOnWhileKeysAreUnchanged : Obligations.WaitGoesOnWhileKeysAreUnchanged := by
  intro s t x hhalt hdecode hwait hstep
  have hbegin : s.awaitedKey = none := State.awaitedKey_eq_none.2 (.inl hwait)
  obtain rfl := Host.Outcome.next.inj ((step_of_awaitedKey_none hhalt hdecode hbegin).symm.trans hstep)
  have hgoesOn : (s.sampleKeys true).awaitedKey = none :=
    State.awaitedKey_eq_none.2 (.inr (s.not_freshPress_sampleKeys true))
  have hdecode' : decode (s.sampleKeys true).fetch = .ok (.ldVxK x) := by rw [State.fetch_sampleKeys, hdecode]
  refine ⟨stepStatus_of_wait hhalt rfl, ?_⟩
  rw [step_of_awaitedKey_none (s := s.sampleKeys true) hhalt hdecode' hgoesOn, State.sampleKeys_sampleKeys]

end Sys2Proof.Machine
end

section
/-! SUPPORT. The errors (60_exceptions.md R200 to R208): what makes the step of a running engine raise which error, and that
a step with no such cause leaves the error registers alone. -/

namespace Sys2Proof.Machine

/-! ### The words that raise an error -/

/-- Every word of family 2 is a CALL (30_encoding.md R95). -/
theorem decode_of_family_two {w : Word} (hw : w.toNat / 4096 = 2) : decode w = .ok (.call (fieldNNN w)) := by
  have hword : encode (.call (fieldNNN w)) = w := encNNN_of_family (fieldF_eq_iff.mpr hw)
  exact (congrArg decode hword).symm.trans (decodeOfEncodeIsIdentity (.call (fieldNNN w)) rfl)

theorem illegalWord_of_family_two {w : Word} (hw : w.toNat / 4096 = 2) : illegalWord w = false := by
  simp [illegalWord, hw]

/-- What makes the step of a running engine raise an error, with the error raised (60_exceptions.md R200). -/
inductive StepError (s : State) : ErrCode → Prop
  | underflow (hword : s.fetch = 0x00EE#16) (hempty : s.sp.val = 0) : StepError s .stackUnderflow
  | overflow (hword : s.fetch.toNat / 4096 = 2) (hfull : s.sp.val = 16) : StepError s .stackOverflow
  | unknown (hword : illegalWord s.fetch = true) : StepError s .unknownOpcode

variable {s t : State} {e : ErrCode}

theorem exists_stepError_iff : (∃ e, StepError s e) ↔
    (s.fetch = 0x00EE#16 ∧ s.sp.val = 0) ∨ (s.fetch.toNat / 4096 = 2 ∧ s.sp.val = 16) ∨ illegalWord s.fetch = true := by
  constructor
  · rintro ⟨_, he⟩
    cases he with
    | underflow hword hempty => exact .inl ⟨hword, hempty⟩
    | overflow hword hfull => exact .inr (.inl ⟨hword, hfull⟩)
    | unknown hword => exact .inr (.inr hword)
  · rintro (⟨hword, hempty⟩ | ⟨hword, hfull⟩ | hword)
    · exact ⟨_, .underflow hword hempty⟩
    · exact ⟨_, .overflow hword hfull⟩
    · exact ⟨_, .unknown hword⟩

/-- The three causes concern different words, so the code of the error tells which kind of word was fetched. -/
theorem StepError.code_iff (he : StepError s e) :
    (e.code = 2 ↔ s.fetch = 0x00EE#16) ∧ (e.code = 1 ↔ s.fetch.toNat / 4096 = 2) ∧
    (e.code = 3 ↔ illegalWord s.fetch = true) := by
  cases he with
  | underflow hword => rw [hword]; decide
  | overflow hword =>
    have hret : s.fetch ≠ 0x00EE#16 := fun h => absurd (h ▸ hword) (by decide)
    simp [ErrCode.code, hret, hword, illegalWord_of_family_two hword]
  | unknown hword =>
    have hret : s.fetch ≠ 0x00EE#16 := fun h => absurd (h ▸ hword) (by decide)
    have hcall : s.fetch.toNat / 4096 ≠ 2 := fun h =>
      Bool.false_ne_true ((illegalWord_of_family_two h).symm.trans hword)
    simp [ErrCode.code, hret, hcall, hword]

/-! ### The step with and without a cause -/

/-- A step with a cause is the error entry under the fetched word, and nothing else (60_exceptions.md R202). -/
theorem StepError.step_eq (he : StepError s e) (hhalt : s.halt = false) : step s = .next (s.raise e s.fetch) := by
  cases he with
  | underflow hword hempty =>
    have hdecode : decode s.fetch = .ok .ret := hword ▸ rfl
    rw [step_of_decode_ok hhalt hdecode, exec_ret_of_empty (by omega), encode_of_decode hdecode]
  | overflow hword hfull =>
    have hdecode := decode_of_family_two hword
    rw [step_of_decode_ok hhalt hdecode, exec_call_of_full _ (by omega), encode_of_decode hdecode]
  | unknown hword => exact illegalWordRaisesUnknownOpcode s hhalt hword

/-- An instruction that takes the error entry in a running engine does so for one of the causes: RET with an entry and CALL
with room complete. -/
theorem MayRaise.stepError {i : Instr} {w : Word} (he : MayRaise i e) (hhalt : s.halt = false)
    (hdecode : decode s.fetch = .ok i) (hexec : exec i s = .next (s.raise e w)) : StepError s e := by
  have hword : encode i = s.fetch := encode_of_decode hdecode
  have hhalts {t : State} (h : exec i s = .next t) : t.halt ≠ s.halt := by
    rw [Host.Outcome.next.inj (h.symm.trans hexec), State.halt_raise, hhalt]
    exact Bool.false_ne_true.symm
  cases he with
  | underflow =>
    have hempty : ¬ 0 < s.sp.val := fun hs => hhalts (exec_ret_of_pos hs) rfl
    exact .underflow hword.symm (by omega)
  | overflow n =>
    have hfull : ¬ s.sp.val < 16 := fun hs => hhalts (exec_call_of_lt n hs) rfl
    exact .overflow (hword ▸ toNat_encNNN_div _ n) (by omega)
  | unknown n => exact .unknown (hword ▸ illegalWord_encode (wellFormed_of_decode hdecode))

/-- A step without a cause leaves the error registers alone (60_exceptions.md R206, R208). -/
theorem step_error_registers_eq (hhalt : s.halt = false) (hno : ¬ ∃ e, StepError s e) (h : step s = .next t) :
    t.halt = s.halt ∧ t.err = s.err ∧ t.errOpcode = s.errOpcode := by
  obtain ⟨hhalted, -⟩ | ⟨-, i, hdecode, hexec⟩ | ⟨-, ⟨_, hdecode⟩, -⟩ := step_cases h
  · exact absurd (hhalt.symm.trans hhalted) Bool.false_ne_true
  · obtain hsame | ⟨e, he, rfl⟩ := exec_error_cases hexec
    · exact hsame
    · exact absurd ⟨e, he.stepError hhalt hdecode hexec⟩ hno
  · exact absurd ⟨_, .unknown (illegalWord_of_decode_error hdecode).2⟩ hno

/-- Settles O55: with a cause the step is its error entry (`StepError.step_eq`), without one the error registers stay
(`step_error_registers_eq`). -/
theorem stepHaltsExactlyOnTheThreeErrors : Obligations.StepHaltsExactlyOnTheThreeErrors := by
  intro s hhalt
  by_cases hcause : ∃ e, StepError s e
  · obtain ⟨e, he⟩ := hcause
    exact ⟨s.raise e s.fetch, he.step_eq hhalt, iff_of_true rfl (exists_stepError_iff.mp ⟨e, he⟩),
      fun _ => ⟨e, rfl, he.code_iff⟩, fun hruns => absurd hruns.symm Bool.false_ne_true⟩
  · obtain ⟨t, ht⟩ := everyStepHasANextState s
    obtain ⟨hhalt', herr⟩ := step_error_registers_eq hhalt hcause ht
    have hruns : t.halt ≠ true := hhalt'.trans hhalt ▸ Bool.false_ne_true
    exact ⟨t, ht, iff_of_false hruns (mt exists_stepError_iff.mpr hcause), fun h => absurd h hruns, fun _ => herr⟩

end Sys2Proof.Machine
end

section
/-! SUPPORT. The operations of the host that change CORE (60_exceptions.md R204, R210 to R213): a timer's decrement as a
number, `n` ticks at once, and the operations on a halted engine. -/

namespace Sys2Proof.Machine

/-! ### The timers -/

theorem toNat_countDown (b : Byte) : (countDown b).toNat = b.toNat - 1 := by
  unfold countDown
  split
  · next hpos => exact BitVec.toNat_sub_of_le (BitVec.le_def.mpr hpos)
  · next hzero => omega

/-- Settles O49: `toNat_countDown` for each timer; `SOUND` follows the new `ST`. -/
theorem tickDecrementsBothTimers : Obligations.TickDecrementsBothTimers := by
  intro sys hbooted
  refine ⟨sys.core.tick, System.apply_of_booted hbooted nofun, rfl, ?_, ?_, ?_⟩
  · rw [State.dt_tick, toNat_countDown]
    split <;> omega
  · rw [State.st_tick, toNat_countDown]
    split <;> omega
  · rw [State.sound, decide_eq_true_eq, State.st_tick, toNat_countDown]
    omega

theorem toNat_iterate_countDown (n : Nat) (b : Byte) : (countDown^[n] b).toNat = b.toNat - n := by
  induction n with
  | zero => rfl
  | succ n ih => rw [Function.iterate_succ_apply', toNat_countDown, ih, Nat.sub_sub]

/-- `n` ticks count each timer down `n` times and do nothing else (60_exceptions.md R211). -/
theorem State.ticks_eq (s : State) (n : Nat) :
    s.ticks n = { s with dt := countDown^[n] s.dt, st := countDown^[n] s.st } := by
  induction n with
  | zero => rfl
  | succ n ih => rw [State.ticks, ih, State.tick, Function.iterate_succ_apply', Function.iterate_succ_apply']

/-- Settles O50: `State.ticks_eq`, with the timers as numbers. -/
theorem ticksFloorAtZero : Obligations.TicksFloorAtZero := by
  intro s n
  rw [s.ticks_eq n]
  exact ⟨rfl, toNat_iterate_countDown n s.dt, toNat_iterate_countDown n s.st⟩

/-! ### The keypad -/

/-- Settles O51: `State.keyDown_setKey`, whose `keyDown` is the bit of `KEYS`. -/
theorem setKeyChangesOneKey : Obligations.SetKeyChangesOneKey := fun sys k b hbooted =>
  ⟨sys.core.setKey k b, System.apply_of_booted hbooted nofun, rfl, sys.core.keyDown_setKey k b⟩

/-! ### A halted engine -/

theorem stepStatus_of_halted {s : State} (hhalt : s.halt = true) : stepStatus s = .halted s.err.code s.errOpcode := by
  rw [stepStatus, if_pos hhalt]

/-- Settles O7: a halted step leaves CORE and so answers the same status; the host's operations do not look at `HALT`. -/
theorem haltedEngineIsStuckButHostOperationsWork : Obligations.HaltedEngineIsStuckButHostOperationsWork := by
  rintro ⟨core, _⟩ rfl hhalt
  refine ⟨?_, rfl, fun _ _ => rfl, rfl, rfl⟩
  rw [System.apply_step (sys := ⟨core, .running⟩) nofun (step_of_halted hhalt), stepStatus_of_halted hhalt]

end Sys2Proof.Machine
end

section
/-! SUPPORT. The boot sequence and the bounded waits (70_reset_and_hazards.md R240 to R250): the wait a key press ends, memory
after an image is loaded, and what each operation does to the phase. -/

namespace Sys2Proof.Machine

/-! ### A key pressed during a wait (R250) -/

section
variable {s : State}

theorem stepStatus_of_running (hhalt : s.halt = false) (hwait : s.wait = false) : stepStatus s = .ok := by
  simp [stepStatus, hhalt, hwait]

/-- A step at `FX0A` that a key ends. -/
theorem step_of_awaitedKey_some {x : Reg} {k : Key} (hhalt : s.halt = false) (hdecode : decode s.fetch = .ok (.ldVxK x))
    (hk : s.awaitedKey = some k) : step s = .next ((s.sampleKeys false).setReg x (BitVec.ofNat 8 k.val)).advance :=
  (step_of_decode_ok hhalt hdecode).trans (exec_ldVxK_of_some x hk)

/-- A key pressed right after the keys were sampled, and up at that sample, is the only one freshly down. -/
theorem State.freshPress_setKey_sampleKeys_iff {k : Key} (b : Bool) (hup : s.keys.getLsbD k.val = false) (j : Key) :
    ((s.sampleKeys b).setKey k true).freshPress j ↔ j = k := by
  have hdown : ((s.sampleKeys b).setKey k true).keys.getLsbD j.val = if j = k then true else s.keys.getLsbD j.val :=
    (s.sampleKeys b).keyDown_setKey k true j
  rw [State.freshPress, hdown, State.keyPrev_setKey, State.keyPrev_sampleKeys]
  by_cases hj : j = k
  · subst hj
    exact iff_of_true ⟨if_pos rfl, hup⟩ rfl
  · rw [if_neg hj]
    exact iff_of_false (fun ⟨hdown, hprev⟩ => Bool.false_ne_true (hprev.symm.trans hdown)) hj

/-- During a wait that key is the awaited one. -/
theorem State.awaitedKey_setKey_sampleKeys {k : Key} (hup : s.keys.getLsbD k.val = false) :
    ((s.sampleKeys true).setKey k true).awaitedKey = some k :=
  State.awaitedKey_eq_some.2 ⟨rfl, (State.freshPress_setKey_sampleKeys_iff true hup k).2 rfl, fun j hj =>
    mt (State.freshPress_setKey_sampleKeys_iff true hup j).1 (ne_of_lt hj)⟩

end

/-- Settles O47: the first step samples the keys with `k` up, so that `k` is the awaited key of the second
(`State.awaitedKey_setKey_sampleKeys`). -/
theorem keyPressEndsTheWait : Obligations.KeyPressEndsTheWait := by
  intro s x k hhalt hdecode hwait hup
  have hbegin : s.awaitedKey = none := State.awaitedKey_eq_none.2 (.inl hwait)
  have hdecode' : decode ((s.sampleKeys true).setKey k true).fetch = .ok (.ldVxK x) := hdecode
  refine ⟨_, _, step_of_awaitedKey_none hhalt hdecode hbegin, stepStatus_of_wait hhalt rfl, rfl,
    step_of_awaitedKey_some hhalt hdecode' (State.awaitedKey_setKey_sampleKeys hup), stepStatus_of_running hhalt rfl, rfl, ?_⟩
  rw [State.reg_advance, toNat_reg_setReg, if_pos rfl, toNat_keyByte]

/-! ### Loading an image (R241) -/

section
variable {bytes : List Byte} (s : State)

theorem System.apply_load_of_gt (hlen : bytes.length > 3584) :
    (⟨s, .fresh⟩ : System).apply (.load bytes) = some (⟨s, .fresh⟩, .romTooLarge) := by
  simp only [System.apply, State.load, if_pos hlen]

theorem System.apply_load_of_le (hlen : bytes.length ≤ 3584) :
    (⟨s, .fresh⟩ : System).apply (.load bytes) = some (⟨s.memWriteList 0x200 bytes, .running⟩, .done) := by
  simp only [System.apply, State.load, if_neg (Nat.not_lt.mpr hlen)]

variable (hlen : bytes.length ≤ 3584)
include hlen

/-- Byte `k` of an image that fits is read at `0x200 + k`. -/
theorem State.memRead_memWriteList_image {k : Nat} (hk : k < bytes.length) :
    (s.memWriteList 0x200 bytes).memRead (0x200 + k) = bytes[k] := by
  have hoffset : (0x200 + k + 4096 - 0x200 % 4096) % 4096 = k := by omega
  simp only [State.memRead_memWriteList bytes (by omega), hoffset, hk, dite_true]

/-- An image that fits ends at the top of memory at the latest, so it reaches no address outside its own range. -/
theorem State.memRead_memWriteList_outside_image {a : Nat} (ha : a < 4096) (hout : a < 0x200 ∨ 0x200 + bytes.length ≤ a) :
    (s.memWriteList 0x200 bytes).memRead a = s.memRead a := by
  rw [State.memRead_memWriteList bytes (by omega), dif_neg (by omega)]

end

/-- Settles O52: the two answers of `Load` in the fresh phase, and memory inside and outside the image. -/
theorem loadCopiesTheImageOrRefuses : Obligations.LoadCopiesTheImageOrRefuses := by
  refine fun s bytes => ⟨System.apply_load_of_gt s, fun hlen => ⟨_, System.apply_load_of_le s hlen,
    s.memWriteList_eq 0x200 bytes, fun k hk => ?_, fun a => s.memRead_memWriteList_outside_image hlen⟩⟩
  rw [s.memRead_memWriteList_image hlen hk, List.getElem?_eq_getElem hk]

/-! ### The boot order (R242) -/

section
variable {sys sys' : System} {op : Op} {ans : Answer}

theorem System.apply_of_unbooted (hphase : sys.phase = .unbooted) (hop : op ≠ .reset) : sys.apply op = none := by
  obtain ⟨core, _⟩ := sys
  obtain rfl := hphase
  cases op with
  | reset => exact absurd rfl hop
  | _ => rfl

theorem System.apply_load_of_running (hphase : sys.phase = .running) (bytes : List Byte) :
    sys.apply (.load bytes) = none := by
  obtain ⟨core, _⟩ := sys
  obtain rfl := hphase
  rfl

/-- A `Load` that is a move ends the fresh phase, or fails and changes nothing. -/
theorem System.phase_of_apply_load {bytes : List Byte} (h : sys.apply (.load bytes) = some (sys', ans)) :
    sys'.phase = .running ∨ sys' = sys ∧ ans = .romTooLarge := by
  obtain ⟨core, phase⟩ := sys
  cases phase with
  | unbooted | running => cases h
  | fresh =>
    obtain hlen | hlen := Nat.lt_or_ge 3584 bytes.length
    · cases (System.apply_load_of_gt core hlen).symm.trans h
      exact .inr ⟨rfl, rfl⟩
    · cases (System.apply_load_of_le core hlen).symm.trans h
      exact .inl rfl

/-- Every operation but `Reset()` leads to the running phase, a `Load` that fails excepted. -/
theorem System.phase_of_apply (hop : op ≠ .reset) (h : sys.apply op = some (sys', ans)) :
    sys'.phase = .running ∨ sys' = sys ∧ ans = .romTooLarge := by
  have hbooted : sys.phase ≠ .unbooted := fun hphase => nomatch (System.apply_of_unbooted hphase hop).symm.trans h
  cases op with
  | reset => exact absurd rfl hop
  | load bytes => exact System.phase_of_apply_load h
  | step =>
    obtain ⟨t, ht⟩ := everyStepHasANextState sys.core
    cases (System.apply_step hbooted ht).symm.trans h
    exact .inl rfl
  | tick | setKey k b | readDisplay | clearDrawFlag =>
    cases h.symm.trans (System.apply_of_booted hbooted nofun)
    exact .inl rfl

/-- Without a `Reset()` the running phase is never left. -/
theorem System.phase_of_run {ops : List Op} (hphase : sys.phase = .running) (hops : ∀ o ∈ ops, o ≠ .reset)
    (h : sys.run ops = some sys') : sys'.phase = .running := by
  induction ops generalizing sys with
  | nil =>
    obtain rfl := Option.some.inj h
    exact hphase
  | cons op ops ih =>
    obtain ⟨hop, hops⟩ := List.forall_mem_cons.1 hops
    unfold System.run at h
    split at h
    · next mid _ happly =>
      have hmid : mid.phase = .running := by
        obtain hrun | ⟨rfl, -⟩ := System.phase_of_apply hop happly
        · exact hrun
        · exact hphase
      exact ih hmid hops h
    · cases h

end

/-- Settles O53: the first operation that is no failed `Load` leads to the running phase (`System.phase_of_apply`), which
lasts (`System.phase_of_run`) and has no `Load`. -/
theorem bootOrderIsEnforced : Obligations.BootOrderIsEnforced := by
  refine ⟨fun _ _ => System.apply_of_unbooted rfl, fun ⟨_, phase⟩ => ?_, ?_⟩
  · cases phase <;> rfl
  · intro _ sys' sys'' _ _ _ hop hans happly hops hrun
    have hfirst : sys'.phase = .running :=
      (System.phase_of_apply hop happly).resolve_right fun ⟨_, hrefused⟩ => hans hrefused
    have hlast : sys''.phase = .running := System.phase_of_run hfirst hops hrun
    exact ⟨hlast, System.apply_load_of_running hlast⟩

end Sys2Proof.Machine
end
